-- ==== Sys2Proof/Word.lean ====
section
/-! DEFINITION. The words the FB312's links and counters are made of. -/

namespace Sys2Proof

/-- One octet of a frame (R167). -/
abbrev Byte := BitVec 8

/-- A value of the 10 MHz time base, or a difference of two (R69). -/
abbrev TimeStamp := BitVec 32

end Sys2Proof
end

