-- ==== Sys2Proof/Syntax.lean ====
section
/-! DEFINITION. The commands the FB312 takes: one constructor of Instr per row of spec/opcode_table.json. -/

namespace Sys2Proof

/-- The three berths (ch. 00). -/
inductive Berth where
  | A | B | C
  deriving DecidableEq, Repr

/-- The five links (ch. 00): shore, one ship link per berth, tariff. -/
inductive Link where
  | shore
  | ship (b : Berth)
  | tariff
  deriving DecidableEq, Repr

/-- The converter modules M1 to M12; M1 is 0 (R46). -/
abbrev ModuleId := Fin 12

/-- The level of a contact: CLOSED or OPEN (R121). -/
inductive Contact where
  | closed | opened
  deriving DecidableEq, Repr

/-- The earth-monitor result line (R121). -/
inductive EarthResult where
  | healthy | failed
  deriving DecidableEq, Repr

/-- Which bus of a berth a capture input watches: ZS is the ship side, ZO the outlet side (R70). -/
inductive BusSide where
  | ship | outlet
  deriving DecidableEq, Repr

/-- One berth's three values of a bus frame (R81): outlet and ship-bus voltage in V, active power in W, signed. -/
structure BusValues where
  outlet : BitVec 16
  shipBus : BitVec 16
  power : BitVec 32
  deriving DecidableEq, Repr

/-- The commands. A request carries the link its frame came on and its payload octets, laid out as R170 gives them.
A timer's expiry carries the berth, module, link or input the timer belongs to. A change of a line carries the new
level. A bus frame carries its octets, its check among them (R81). `discardedFrame` carries the octets after the frame's
sync octet. -/
inductive Instr where
  /-- BERTH_ENABLE (R6). -/
  | berthEnable (link : Link) (payload : List Byte)
  /-- BERTH_DISABLE (R6). -/
  | berthDisable (link : Link) (payload : List Byte)
  /-- READ_BERTH (R4). -/
  | readBerth (link : Link) (payload : List Byte)
  /-- READ_OFFER (R31). -/
  | readOffer (link : Link) (payload : List Byte)
  /-- SHIP_STATUS (R3). -/
  | shipStatus (link : Link) (payload : List Byte)
  /-- REQUEST_PAGE (R34). -/
  | requestPage (link : Link) (payload : List Byte)
  /-- CONTINUATION_PAGE (R40). -/
  | continuationPage (link : Link) (payload : List Byte)
  /-- REQUEST_AUTHORITY (R23). -/
  | requestAuthority (link : Link) (payload : List Byte)
  /-- RELEASE_AUTHORITY (R24). -/
  | releaseAuthority (link : Link) (payload : List Byte)
  /-- SEIZE_AUTHORITY (R26). -/
  | seizeAuthority (link : Link) (payload : List Byte)
  /-- CONNECT (R10). -/
  | connect (link : Link) (payload : List Byte)
  /-- RAMP_STEP (R104). -/
  | rampStep (link : Link) (payload : List Byte)
  /-- HOLD (R105). -/
  | hold (link : Link) (payload : List Byte)
  /-- DEPART (R16). -/
  | depart (link : Link) (payload : List Byte)
  /-- ABORT (R16). -/
  | abort (link : Link) (payload : List Byte)
  /-- FORCE_SEPARATE (R17). -/
  | forceSeparate (link : Link) (payload : List Byte)
  /-- CLEAR_TRIP (R22). -/
  | clearTrip (link : Link) (payload : List Byte)
  /-- CLEAR_MODULE_FAULT (R56). -/
  | clearModuleFault (link : Link) (payload : List Byte)
  /-- READ_MODULE_POOL (R68). -/
  | readModulePool (link : Link) (payload : List Byte)
  /-- READ_MEASUREMENT (R84). -/
  | readMeasurement (link : Link) (payload : List Byte)
  /-- READ_SYNCHRONISER (R100). -/
  | readSynchroniser (link : Link) (payload : List Byte)
  /-- READ_RAMP (R120). -/
  | readRamp (link : Link) (payload : List Byte)
  /-- READ_BUDGET (R120). -/
  | readBudget (link : Link) (payload : List Byte)
  /-- READ_PROTECTION (R136). -/
  | readProtection (link : Link) (payload : List Byte)
  /-- READ_METER (R153). -/
  | readMeter (link : Link) (payload : List Byte)
  /-- READ_TARIFF (R153). -/
  | readTariff (link : Link) (payload : List Byte)
  /-- READ_RECORD_POOL (R166). -/
  | readRecordPool (link : Link) (payload : List Byte)
  /-- SET_CLOCK (R152). -/
  | setClock (link : Link) (payload : List Byte)
  /-- SET_BERTH_SETTINGS (R175). -/
  | setBerthSettings (link : Link) (payload : List Byte)
  /-- SET_PLANT_SETTING (R176). -/
  | setPlantSetting (link : Link) (payload : List Byte)
  /-- READ_SETTINGS (R174). -/
  | readSettings (link : Link) (payload : List Byte)
  /-- PLANT_RESET (R178). -/
  | plantReset (link : Link) (payload : List Byte)
  /-- READ_NOTICES (R171). -/
  | readNotices (link : Link) (payload : List Byte)
  /-- SET_NOTICE_MASK (R171). -/
  | setNoticeMask (link : Link) (payload : List Byte)
  /-- KEEP_ALIVE (R169). -/
  | keepAlive (link : Link) (payload : List Byte)
  /-- LOAD_TARIFF_TABLE (R148). -/
  | loadTariffTable (link : Link) (payload : List Byte)
  /-- FETCH_RECORD (R162). -/
  | fetchRecord (link : Link) (payload : List Byte)
  /-- RELEASE_RECORD (R162). -/
  | releaseRecord (link : Link) (payload : List Byte)
  /-- FETCH_COPY (R164). -/
  | fetchCopy (link : Link) (payload : List Byte)
  /-- RELEASE_COPY (R164). -/
  | releaseCopy (link : Link) (payload : List Byte)
  /-- UNKNOWN_REQUEST (R168). -/
  | unknownRequest (link : Link) (code : Byte) (payload : List Byte)
  /-- NON_REQUEST_FRAME (R168). -/
  | nonRequestFrame (link : Link) (kind code : Byte) (payload : List Byte)
  /-- DISCARDED_FRAME (R168). -/
  | discardedFrame (link : Link) (octets : List Byte)
  /-- RESET_LINE (R177). -/
  | resetLine
  /-- POWER_ON (R177). -/
  | powerOn
  /-- LINK_LOSS (R172). -/
  | linkLoss (link : Link)
  /-- AUTHORITY_EXPIRY (R25). -/
  | authorityExpiry (b : Berth)
  /-- ALLOCATION_TIMEOUT (R10). -/
  | allocationTimeout (b : Berth)
  /-- ENERGISE_TIMEOUT (R12). -/
  | energiseTimeout (b : Berth)
  /-- PAGE_WAIT_EXPIRY (R41). -/
  | pageWaitExpiry (b : Berth)
  /-- CHARGE_START (R49). -/
  | chargeStart
  /-- CYCLE_TIME_PASSED (R57). -/
  | cycleTimePassed (m : ModuleId)
  /-- CHARGE_TIMEOUT (R51). -/
  | chargeTimeout (m : ModuleId)
  /-- IDLE_HOLD_EXPIRY (R52). -/
  | idleHoldExpiry (m : ModuleId)
  /-- DRAIN_EXPIRY (R54). -/
  | drainExpiry (m : ModuleId)
  /-- CHARGED_REPORT (R50). -/
  | chargedReport (m : ModuleId)
  /-- FAULT_REPORT (R55). -/
  | faultReport (m : ModuleId) (code : Byte)
  /-- REFERENCE_CROSSING (R74). -/
  | referenceCrossing (b : Berth)
  /-- ZERO_CROSSING (R70). -/
  | zeroCrossing (side : BusSide) (b : Berth) (stamp : TimeStamp)
  /-- DEAD_TIMER_EXPIRY (R72). -/
  | deadTimerExpiry (side : BusSide) (b : Berth)
  /-- SAMPLE_STROBE (R81). -/
  | sampleStrobe
  /-- BUS_FRAME (R82): the octets as they came, in the parts of R81's table (log 40); a frame of another length has a
  part too short or too long, and only the sequence of all the octets counts. -/
  | busFrame (strobe outlet shipBus power check : List Byte)
  /-- CLOCK_ADVANCE (R151). -/
  | clockAdvance
  /-- SYNC_TIMEOUT (R97). -/
  | syncTimeout (b : Berth)
  /-- CLOSE_FAILURE (R96). -/
  | closeFailure (b : Berth)
  /-- RAMP_ADVANCE (R103). -/
  | rampAdvance (b : Berth)
  /-- SEPARATION_WAIT_EXPIRY (R107). -/
  | separationWaitExpiry (b : Berth)
  /-- OVERLOAD_EXPIRY (R119). -/
  | overloadExpiry (b : Berth)
  /-- OUTLET_CLOSE_TIMEOUT (R124). -/
  | outletCloseTimeout (b : Berth)
  /-- OUTLET_OPEN_TIMEOUT (R125). -/
  | outletOpenTimeout (b : Berth)
  /-- COUPLER_OPEN_PULSE_EXPIRY (R126). -/
  | couplerOpenPulseExpiry (b : Berth)
  /-- EARTH_CHECK_DUE (R130). -/
  | earthCheckDue (b : Berth)
  /-- EARTH_CHECK_END (R131). -/
  | earthCheckEnd (b : Berth)
  /-- GRACE_EXPIRY (R134). -/
  | graceExpiry (b : Berth)
  /-- EMERGENCY_STOP_CHANGE (R123). -/
  | emergencyStopChange (b : Berth) (level : Contact)
  /-- PLUG_PILOT_CHANGE (R123). -/
  | plugPilotChange (b : Berth) (level : Contact)
  /-- OUTLET_AUX_CHANGE (R125). -/
  | outletAuxChange (b : Berth) (level : Contact)
  /-- COUPLER_AUX_CHANGE (R126). -/
  | couplerAuxChange (b : Berth) (level : Contact)
  /-- EARTH_RESULT_CHANGE (R131). -/
  | earthResultChange (b : Berth) (level : EarthResult)
  /-- RESET_LINE_ASSERTED (R177). -/
  | resetLineAsserted
  deriving DecidableEq, Repr

end Sys2Proof
end

