-- ==== Sys2Proof/Decode.lean ====
section
/-! DEFINITION. From octets to commands: the frame check and the request codes of R167 to R170, and the host's
decodeTableWord (the opcode table gives no row any bits). -/

namespace Sys2Proof

/-- One step of the frame check for one bit, most significant first: polynomial 1021h, no reflection (R167). -/
def crcBit (r : BitVec 16) (bit : Bool) : BitVec 16 :=
  if (r.msb != bit) then (r <<< 1) ^^^ 0x1021#16 else r <<< 1

/-- The frame check over one octet, its most significant bit first (R167). -/
def crcByte (r : BitVec 16) (o : Byte) : BitVec 16 :=
  [7, 6, 5, 4, 3, 2, 1, 0].foldl (fun r i => crcBit r (o.getLsbD i)) r

/-- CRC-16 with initial value FFFFh and no final exclusive-or (R167). -/
def crc16 (octets : List Byte) : BitVec 16 :=
  octets.foldl crcByte 0xFFFF#16

/-- The check's two octets, most significant first (R167). -/
def crcOctets (octets : List Byte) : List Byte :=
  [(crc16 octets).extractLsb' 8 8, (crc16 octets).extractLsb' 0 8]

/-- The payload lengths of R170 on the shore link, a ship link and the tariff link, by request code; `none` is the
table's dash. -/
def payloadLengths (code : Nat) : Option Nat × Option Nat × Option Nat :=
  match code with
  | 0x01 => (some 1, none, none)  -- berthEnable
  | 0x02 => (some 1, none, none)  -- berthDisable
  | 0x03 => (some 1, some 0, none)  -- readBerth
  | 0x04 => (some 1, some 0, none)  -- readOffer
  | 0x05 => (none, some 3, none)  -- shipStatus
  | 0x06 => (none, some 8, none)  -- requestPage
  | 0x07 => (none, some 12, none)  -- continuationPage
  | 0x08 => (some 1, some 0, none)  -- requestAuthority
  | 0x09 => (some 1, some 0, none)  -- releaseAuthority
  | 0x0A => (some 1, none, none)  -- seizeAuthority
  | 0x0B => (some 1, some 0, none)  -- connect
  | 0x0C => (some 5, some 4, none)  -- rampStep
  | 0x0D => (some 1, some 0, none)  -- hold
  | 0x0E => (some 3, some 2, none)  -- depart
  | 0x0F => (some 1, some 0, none)  -- abort
  | 0x10 => (some 1, none, none)  -- forceSeparate
  | 0x11 => (some 1, none, none)  -- clearTrip
  | 0x12 => (some 1, none, none)  -- clearModuleFault
  | 0x13 => (some 0, none, none)  -- readModulePool
  | 0x14 => (some 0, some 0, none)  -- readMeasurement
  | 0x15 => (some 1, some 0, none)  -- readSynchroniser
  | 0x16 => (some 1, some 0, none)  -- readRamp
  | 0x17 => (some 0, none, none)  -- readBudget
  | 0x18 => (some 1, some 0, none)  -- readProtection
  | 0x19 => (some 1, some 0, some 1)  -- readMeter
  | 0x1A => (some 0, none, some 0)  -- readTariff
  | 0x1B => (some 0, none, some 0)  -- readRecordPool
  | 0x1C => (some 4, none, none)  -- setClock
  | 0x1D => (some 19, none, none)  -- setBerthSettings
  | 0x1E => (some 3, none, none)  -- setPlantSetting
  | 0x1F => (some 0, none, none)  -- readSettings
  | 0x20 => (some 0, none, none)  -- plantReset
  | 0x21 => (some 0, some 0, some 0)  -- readNotices
  | 0x22 => (some 8, some 8, some 8)  -- setNoticeMask
  | 0x23 => (some 0, some 0, some 0)  -- keepAlive
  | 0x24 => (none, none, some 79)  -- loadTariffTable
  | 0x25 => (none, none, some 0)  -- fetchRecord
  | 0x26 => (none, none, some 2)  -- releaseRecord
  | 0x27 => (none, some 0, none)  -- fetchCopy
  | 0x28 => (none, some 2, none)  -- releaseCopy
  | _ => (none, none, none)

/-- The payload length a request must have on a link, or `none` where the link does not accept it (R169, R170). -/
def payloadLength (code : Nat) (link : Link) : Option Nat :=
  match link with
  | .shore => (payloadLengths code).1
  | .ship _ => (payloadLengths code).2.1
  | .tariff => (payloadLengths code).2.2

/-- The request a known code names (R170). -/
def requestOf (link : Link) (code : Byte) (payload : List Byte) : Option Instr :=
  match code.toNat with
  | 0x01 => some (.berthEnable link payload)
  | 0x02 => some (.berthDisable link payload)
  | 0x03 => some (.readBerth link payload)
  | 0x04 => some (.readOffer link payload)
  | 0x05 => some (.shipStatus link payload)
  | 0x06 => some (.requestPage link payload)
  | 0x07 => some (.continuationPage link payload)
  | 0x08 => some (.requestAuthority link payload)
  | 0x09 => some (.releaseAuthority link payload)
  | 0x0A => some (.seizeAuthority link payload)
  | 0x0B => some (.connect link payload)
  | 0x0C => some (.rampStep link payload)
  | 0x0D => some (.hold link payload)
  | 0x0E => some (.depart link payload)
  | 0x0F => some (.abort link payload)
  | 0x10 => some (.forceSeparate link payload)
  | 0x11 => some (.clearTrip link payload)
  | 0x12 => some (.clearModuleFault link payload)
  | 0x13 => some (.readModulePool link payload)
  | 0x14 => some (.readMeasurement link payload)
  | 0x15 => some (.readSynchroniser link payload)
  | 0x16 => some (.readRamp link payload)
  | 0x17 => some (.readBudget link payload)
  | 0x18 => some (.readProtection link payload)
  | 0x19 => some (.readMeter link payload)
  | 0x1A => some (.readTariff link payload)
  | 0x1B => some (.readRecordPool link payload)
  | 0x1C => some (.setClock link payload)
  | 0x1D => some (.setBerthSettings link payload)
  | 0x1E => some (.setPlantSetting link payload)
  | 0x1F => some (.readSettings link payload)
  | 0x20 => some (.plantReset link payload)
  | 0x21 => some (.readNotices link payload)
  | 0x22 => some (.setNoticeMask link payload)
  | 0x23 => some (.keepAlive link payload)
  | 0x24 => some (.loadTariffTable link payload)
  | 0x25 => some (.fetchRecord link payload)
  | 0x26 => some (.releaseRecord link payload)
  | 0x27 => some (.fetchCopy link payload)
  | 0x28 => some (.releaseCopy link payload)
  | _ => none

/-- Is the code one of R170's table? -/
def knownCode (code : Byte) : Bool :=
  1 ≤ code.toNat && code.toNat ≤ 0x28

/-- The command a valid frame is: a request by its code, an unknown request, or a frame of another kind (R167, R168). -/
def commandOfFrame (link : Link) (kind code : Byte) (payload : List Byte) : Instr :=
  if kind = 0#8 then (requestOf link code payload).getD (.unknownRequest link code payload)
  else .nonRequestFrame link kind code payload

/-- What the receiver finds at a sync octet, given the octets after it (R168). -/
inductive FrameParse where
  /-- the length octet lies outside 2 to 122, or the check fails: discarded -/
  | bad
  /-- more octets are needed -/
  | incomplete
  /-- a valid frame, and the octets after it -/
  | valid (kind code : Byte) (payload rest : List Byte)
  deriving DecidableEq, Repr

/-- Judge the octets after a sync octet (R168): length 2 to 122, then that many octets, then the two check octets. -/
def parseFrame (octets : List Byte) : FrameParse :=
  match octets with
  | [] => .incomplete
  | len :: body =>
    if len.toNat < 2 || 122 < len.toNat then .bad
    else if body.length < len.toNat + 2 then .incomplete
    else if crcOctets (len :: body.take len.toNat) = (body.drop len.toNat).take 2 then
      match body.take len.toNat with
      | kind :: code :: payload => .valid kind code payload (body.drop (len.toNat + 2))
      | _ => .bad
    else .bad

/-- The table gives no row any bits, so no word spells a command. -/
def decodeTableWord (_nbits _w : Nat) : Option Instr :=
  none

end Sys2Proof
end

