-- ==== Sys2Proof/Config.lean ====
section
/-! DEFINITION. The free values: what the manual leaves open. Each is opaque, so no proof can see what it is. -/

namespace Sys2Proof

/-- The six orders in which one event can serve the three berths. -/
inductive BerthOrder where
  | abc | acb | bac | bca | cab | cba
  deriving DecidableEq, Repr, Inhabited

/-- The order in which one event that concerns several berths serves them, where the manual gives none (R144, R157:
"the order taken decides"). Applied to the counter `freeCount` of State. Log 8. -/
opaque Config.takenOrder : Nat → BerthOrder

/-- Which of several timers that expire at one tick is taken first ("fall together": R41, R97, R103; no rule ranks them).
Applied to the counter `freeCount` of State. Log 9. -/
opaque Config.dueChoice : Nat → Nat

/-- What an energy accumulator holds after an addition that passes 2^64 − 1 cJ (R137 gives the range, no rule gives
this value). Applied to the counter `freeCount` of State. Log 20. -/
opaque Config.accumulatorOverflow : Nat → BitVec 64

/-- The octets in which a value too large for its field is sent, by the field's width in octets and the value (R170,
R179 state none). Log 21. -/
opaque Config.wideField : Nat → Int → Nat

/-- The octet sent for the kind "none" of an unused page entry of a Connection Summary (R179 gives no number). Log 22. -/
opaque Config.pageKindNone : Byte

/-- The octet sent for the first cause "none" of a Connection Summary (R179 gives no number). Log 22. -/
opaque Config.firstCauseNone : Byte

end Sys2Proof
end

