-- ==== Sys2Proof/Machine/State.lean ====
section
/-! DEFINITION. Everything the FB312 holds, as plain data, and its values right after the RESET line or power-on.
Times are ticks of 100 ns since the release of RESET unless a field says otherwise (log 1). -/

namespace Sys2Proof.Machine

/-- One thing of a kind for each berth. -/
structure PerBerth (α : Type) where
  a : α
  b : α
  c : α
  deriving DecidableEq, Repr

/-- Berth `x`'s thing. -/
def PerBerth.get {α : Type} (p : PerBerth α) (x : Berth) : α :=
  match x with
  | .A => p.a
  | .B => p.b
  | .C => p.c

/-- The same things but for berth `x`'s. -/
def PerBerth.set {α : Type} (p : PerBerth α) (x : Berth) (v : α) : PerBerth α :=
  match x with
  | .A => { p with a := v }
  | .B => { p with b := v }
  | .C => { p with c := v }

/-- The same thing for every berth. -/
def PerBerth.same {α : Type} (v : α) : PerBerth α := ⟨v, v, v⟩

/-- The thirteen stages of a berth (R1, ch. 01 "Stages"), in the manual's order. -/
inductive Stage where
  | vacant | negotiating | agreed | allocating | energising | synchronising | parallel | rampingIn | shoreCarrying
  | rampingOut | separating | releasing | tripped
  deriving DecidableEq, Repr

/-- The authority holder: NONE, SHORE or SHIP (R1). -/
inductive Holder where
  | nobody | shore | ship
  deriving DecidableEq, Repr

/-- A frequency of an agreement: 50,000 or 60,000 mHz (R1). -/
inductive Freq where
  | hz50 | hz60
  deriving DecidableEq, Repr

/-- A voltage of an agreement: 6,600 or 11,000 V (R1). -/
inductive Volt where
  | v6600 | v11000
  deriving DecidableEq, Repr

/-- The role of an agreement: which side forms the bus voltage (R36). -/
inductive Role where
  | shipForms | shoreForms
  deriving DecidableEq, Repr

/-- A role preference (R30, R33). -/
inductive RolePref where
  | formOnly | formPreferred | followPreferred | followOnly
  deriving DecidableEq, Repr

/-- The frequencies a berth offers (R30): 50 Hz, 60 Hz or both. -/
inductive OfferedFreqs where
  | only50 | only60 | both
  deriving DecidableEq, Repr

/-- The kind of a continuation page (R28). -/
inductive PageKind where
  | vesselName | callSign | contract
  deriving DecidableEq, Repr

/-- A stored continuation page: a kind and a text of 0 to 8 characters (R28). -/
structure Page where
  kind : PageKind
  text : List Byte
  deriving DecidableEq, Repr

/-- The agreement of a berth record (R1, R42). -/
structure Agreement where
  frequency : Freq
  voltage : Volt
  agreedKw : Nat
  minimumKw : Nat
  role : Role
  pages : List Page
  deriving DecidableEq, Repr

/-- The trip causes (R127), in the order of its table. -/
inductive TripCause where
  | emergencyStop | plugPilot | outletBreaker | energiseTimeout | couplerCloseFail | earthPath | overload
  | shipLinkLoss
  deriving DecidableEq, Repr

/-- The separation causes (R1). -/
inductive SeparationCause where
  | normal | couplerOpenedByShip | couplerFailedToOpen | forced
  deriving DecidableEq, Repr

/-- The stored ship status (R1, R3); its age is counted from the time it was taken. -/
structure ShipStatus where
  loadKw : Nat
  generators : Nat
  takenAt : Nat
  deriving DecidableEq, Repr

/-- The berth record (R1). `pendingSince` is the time the ship's pending authority request was raised. `causes` holds
each trip cause at most once, in the order raised, so its head is the first cause (R127). -/
structure BerthRecord where
  inService : Bool
  stage : Stage
  holder : Holder
  pendingSince : Option Nat
  agreement : Option Agreement
  causes : List TripCause
  status : Option ShipStatus
  moduleCount : Nat
  summaryReserved : Bool
  linkLost : Bool
  syncHold : Bool
  separationCause : Option SeparationCause
  stageTimer : Option Nat
  qualification : Option Nat
  deriving DecidableEq, Repr

/-- The phases of an Agreement Unit (R28). -/
inductive Phase where
  | idle | offered | collecting | concluded
  deriving DecidableEq, Repr

/-- The offer page (R30). -/
structure Offer where
  berth : Berth
  frequencies : OfferedFreqs
  voltage : Volt
  kw : Nat
  preference : RolePref
  maxRate : Nat
  deriving DecidableEq, Repr

/-- A request page, with its fields as clamped (R33). -/
structure PageRequest where
  frequency : Freq
  voltage : Volt
  wantedKw : Nat
  minimumKw : Nat
  preference : RolePref
  more : Bool
  deriving DecidableEq, Repr

/-- The result of a resolution (R35). -/
inductive Resolution where
  | compatible | badFrequency | badVoltage | badPower | badRole
  deriving DecidableEq, Repr

/-- The resolved terms of a compatible resolution (R35). -/
structure Terms where
  frequency : Freq
  voltage : Volt
  agreedKw : Nat
  minimumKw : Nat
  role : Role
  deriving DecidableEq, Repr

/-- A Page Ack with status DONE, which is the only one ever stored (R40): the mark it echoes. -/
structure PageAck where
  mark : Bool
  deriving DecidableEq, Repr

/-- The Agreement Unit of a berth (R28). A mark of 1 is `true`. -/
structure AgreementUnit where
  phase : Phase
  offer : Option Offer
  request : Option PageRequest
  resolution : Option Resolution
  terms : Option Terms
  pages : List Page
  lastMark : Option Bool
  lastReply : Option PageAck
  pageWait : Option Nat
  deriving DecidableEq, Repr

/-- The six module states (R46). -/
inductive ModuleState where
  | dark | charging | ready | running | draining | faulted
  deriving DecidableEq, Repr

/-- A module's fault cause (R46). -/
inductive FaultCause where
  | moduleReported (code : Byte)
  | chargeTimeout
  deriving DecidableEq, Repr

/-- One entry of the module table (R46). `lastChargeStart` and `entryTime` are times of the elapsed-time count, in ms.
`timer` is the expiry of the charge timer, idle hold or drain timer of the state it is in. `cycleOpen` says that the
moment at which T_cycle passes since the last charge start has not been taken as an event yet (log 26). -/
structure Module where
  state : ModuleState
  berth : Option Berth
  share : Nat
  lastChargeStart : Nat
  entryTime : Nat
  fault : Option FaultCause
  timer : Option Nat
  cycleOpen : Bool
  deriving DecidableEq, Repr

/-- The kind of an allocation queue entry (R58). -/
inductive EntryKind where
  | new | replacement
  deriving DecidableEq, Repr

/-- An allocation queue entry (R58); `entered` is in ms of the elapsed-time count. -/
structure QueueEntry where
  berth : Berth
  wanted : Nat
  kind : EntryKind
  entered : Nat
  deriving DecidableEq, Repr

/-- The Module Pool Manager (R46). `plantLastStart` is in ms of the elapsed-time count. -/
structure ModulePool where
  modules : Vector Module 12
  plantLastStart : Nat
  queue : List QueueEntry
  chargeList : List ModuleId
  deriving DecidableEq, Repr

/-- The modes of a Reference Generator (R74). -/
inductive RefMode where
  | stopped | free | trim | follow | form
  deriving DecidableEq, Repr

/-- A Reference Generator (R74). `owed` counts the reference crossings that have fallen and whose REFERENCE message has
not been taken yet (log 30). -/
structure Reference where
  mode : RefMode
  accumulator : BitVec 32
  word : BitVec 32
  commanded : Option Nat
  clamped : Bool
  owed : Nat
  deriving DecidableEq, Repr

/-- The record of one capture input (R70). -/
structure CaptureRecord where
  latest : Option TimeStamp
  previous : Option TimeStamp
  period : Option (BitVec 32)
  valid : Bool
  frequency : Option Nat
  live : Bool
  deadTimer : Option Nat
  deriving DecidableEq, Repr

/-- The six capture inputs (R70). -/
structure Capture where
  zs : PerBerth CaptureRecord
  zo : PerBerth CaptureRecord
  deriving DecidableEq, Repr

/-- The sample port receiver (R81). `strobeTime` is the time of the latest strobe, `frameTime` that of the latest taken
frame, which is the time of the strobe that ended its period (R12). -/
structure SamplePort where
  strobeCount : BitVec 8
  awaited : Option (BitVec 8)
  taken : Bool
  last : PerBerth (Option BusValues)
  age : PerBerth Nat
  missing : Nat
  badFrames : Nat
  lateFrames : Nat
  duplicates : Nat
  nextStrobe : Nat
  strobeTime : Nat
  frameTime : Nat
  deriving DecidableEq, Repr

/-- The verdicts of a synchronising computation (R88 to R93). -/
inductive Verdict where
  | shipNotLive | lateShipCrossing | noOutletPeriod | voltageStale | closeInFlight | slipLow | slipHigh | angle
  | voltage | shipFrequency | earthCheck | qualifying | poolLow
  deriving DecidableEq, Repr

/-- The last computation (R91). -/
structure Computation where
  tOut : TimeStamp
  delta : Option Nat
  theta : Option Int
  slip : Option Int
  advanceAngle : Option Int
  predicted : Option Int
  outletVolts : Option Nat
  shipVolts : Option Nat
  voltDifference : Option Nat
  outletFreq : Option Nat
  shipFreq : Option Nat
  verdict : Verdict
  count : Nat
  deriving DecidableEq, Repr

/-- A Synchroniser (R85), with the coupler close line it owns (R94). -/
structure Synchroniser where
  running : Bool
  count : Nat
  inFlight : Bool
  failures : Nat
  syncTimer : Option Nat
  heldTimeout : Bool
  supervision : Option Nat
  earthCheck : Bool
  last : Option Computation
  closeLine : Bool
  deriving DecidableEq, Repr

/-- The ramp states (R101). -/
inductive RampState where
  | idle | moving | held
  deriving DecidableEq, Repr

/-- A Ramp Unit (R101); powers in kW, the rate in kW/s. -/
structure Ramp where
  setpoint : Nat
  wanted : Nat
  target : Nat
  rate : Nat
  state : RampState
  capacity : Nat
  advance : Option Nat
  suspended : Bool
  separationWait : Option Nat
  separationDelayed : Bool
  deriving DecidableEq, Repr

/-- A waiting-list entry (R112). -/
structure WaitEntry where
  berth : Berth
  wanted : Nat
  deriving DecidableEq, Repr

/-- The Import Budget (R112); its import limit G is held among the plant settings. -/
structure Budget where
  reservations : PerBerth Nat
  waiting : List WaitEntry
  exceeded : Bool
  deriving DecidableEq, Repr

/-- The change flags of a section's five inputs (R121, R122). -/
structure ChangeFlags where
  emergencyStop : Bool
  plugPilot : Bool
  outletAux : Bool
  couplerAux : Bool
  earthResult : Bool
  deriving DecidableEq, Repr

/-- The outlet supervision and its timer's expiry (R121). -/
inductive OutletSupervision where
  | idle
  | closing (expiry : Nat)
  | opening (expiry : Nat)
  deriving DecidableEq, Repr

/-- The earth-path schedule (R121). -/
inductive EarthSchedule where
  | inactive
  | waiting (due : Nat)
  | running (ending : Nat) (forced : Bool)
  deriving DecidableEq, Repr

/-- A berth section of the Protection Unit (R121). `couplerOpen` is the expiry of the open line's 200 ms, absent while
the line is released. `checkRequest` is the check-request line (R131). -/
structure Section where
  emergencyStop : Contact
  plugPilot : Contact
  outletAux : Contact
  couplerAux : Contact
  earthResult : EarthResult
  flags : ChangeFlags
  outletCommand : Contact
  supervision : OutletSupervision
  couplerOpen : Option Nat
  schedule : EarthSchedule
  checkRequest : Bool
  deferrals : Nat
  lastCheck : Option EarthResult
  graceTimer : Option Nat
  overCapacity : Bool
  overloadTimer : Option Nat
  deriving DecidableEq, Repr

/-- The marks of an interval (R142, R179). -/
structure Marks where
  partialStart : Bool
  partialEnd : Bool
  stretched : Bool
  estimated : Bool
  gap : Bool
  clockSet : Bool
  clockNotSet : Bool
  noTariff : Bool
  trip : Bool
  deriving DecidableEq, Repr

/-- The current interval of a connection (R142). -/
structure Interval where
  start : BitVec 32
  elapsed : Nat
  band : Nat
  rate : Nat
  marks : Marks
  merged : Nat
  deriving DecidableEq, Repr

/-- The terms a connection copies at its start (R138). -/
structure ConnectionTerms where
  frequency : Freq
  voltage : Volt
  agreedKw : Nat
  role : Role
  pages : List Page
  contract : Option (List Byte)
  connectedAt : BitVec 32
  clockNotSet : Bool
  charge : Nat
  deriving DecidableEq, Repr

/-- The connection totals (R137). -/
structure Totals where
  delivered : Nat
  reverse : Nat
  charges : Nat
  intervals : Nat
  peak : Nat
  deriving DecidableEq, Repr

/-- An Interval Record, without the number it is given at its writing (R143). -/
structure IntervalRecord where
  berth : Berth
  contract : Option (List Byte)
  start : BitVec 32
  length : Nat
  band : Nat
  delivered : Nat
  reverse : Nat
  charge : Nat
  demand : Nat
  marks : Marks
  merged : Nat
  deriving DecidableEq, Repr

/-- The end cause of a connection (R139). -/
inductive EndCause where
  | separated (cause : SeparationCause)
  | trip (first : TripCause)
  deriving DecidableEq, Repr

/-- A Connection Summary, without the number it is given at its writing (R146). -/
structure SummaryRecord where
  berth : Berth
  terms : ConnectionTerms
  separatedAt : BitVec 32
  delivered : Nat
  reverse : Nat
  deliveredResidue : Nat
  reverseResidue : Nat
  totalCharge : Nat
  peak : Nat
  intervals : Nat
  endCause : EndCause
  deriving DecidableEq, Repr

/-- A Meter channel (R137); accumulators in cJ. -/
structure Meter where
  connected : Bool
  terms : Option ConnectionTerms
  delivered : Nat
  reverse : Nat
  interval : Option Interval
  missed : Nat
  totals : Totals
  held : Option IntervalRecord
  deriving DecidableEq, Repr

/-- A switch point of a tariff schedule: a second of day and a band (R147). -/
structure SwitchPoint where
  second : Nat
  band : Nat
  deriving DecidableEq, Repr

/-- A tariff table (R147): eight rates for bands 1 to 8, the connection charge, the schedule. -/
structure TariffTable where
  rates : List Nat
  charge : Nat
  points : List SwitchPoint
  deriving DecidableEq, Repr

/-- The Tariff Unit (R147); `nextAdvance` is the time of the clock's next advance (R151). -/
structure Tariff where
  active : Option TariffTable
  pending : Option TariffTable
  clock : BitVec 32
  notSet : Bool
  nextAdvance : Nat
  deriving DecidableEq, Repr

/-- A slot number of the Record Pool (R154). -/
abbrev SlotId := Fin 48

/-- A record of the pool (R155). -/
inductive PoolRecord where
  | interval (r : IntervalRecord)
  | summary (r : SummaryRecord)
  deriving DecidableEq, Repr

/-- The condition of a slot (R155). A USED slot of a summary holds one of its two halves, so both name it; `count` is
the slot's reference count. -/
inductive Slot where
  | free
  | reserved (b : Berth)
  | used (number : BitVec 16) (record : PoolRecord) (count : Nat)
  deriving DecidableEq, Repr

/-- A record's place in an export queue: its number and its slot or two slots, the lower-numbered first (R161, R163). -/
structure RecordRef where
  number : BitVec 16
  first : SlotId
  second : Option SlotId
  deriving DecidableEq, Repr

/-- An entry of the held-record list (R154). -/
structure HeldEntry where
  berth : Berth
  copyWanted : Bool
  deriving DecidableEq, Repr

/-- The Record Pool (R154). -/
structure RecordPool where
  slots : Vector Slot 48
  nextNumber : BitVec 16
  tariffQueue : List RecordRef
  copyQueues : PerBerth (List RecordRef)
  missedCopies : PerBerth Nat
  held : List HeldEntry
  poolLow : Bool
  tariffArmed : Bool
  copyArmed : PerBerth Bool
  deriving DecidableEq, Repr

/-- The thirteen berth settings (R175). -/
structure BerthSettings where
  frequencies : OfferedFreqs
  voltage : Volt
  moduleLimit : Nat
  preference : RolePref
  maxRate : Nat
  window : Nat
  slipMin : Int
  slipMax : Nat
  targetSlip : Nat
  qualifyCount : Nat
  voltTolerance : Nat
  closingTime : Nat
  syncTimeout : Nat
  deriving DecidableEq, Repr

/-- The plant settings (R176): the module rating in kW, L in s, T_space in tenths of a second, T_cycle in s, the import
limit G in kW and the separation threshold in kW; and the berth settings. -/
structure Settings where
  berths : PerBerth BerthSettings
  rating : Nat
  intervalLength : Nat
  tSpace : Nat
  tCycle : Nat
  importLimit : Nat
  threshold : Nat
  deriving DecidableEq, Repr

/-- The Link Interface's state of one link (R171, R172). `rx` holds the octets received from a sync octet on whose frame
is not complete (R168). -/
structure LinkState where
  up : Bool
  silence : Option Nat
  flags : BitVec 64
  mask : BitVec 64
  outstanding : Bool
  rx : List Byte
  deriving DecidableEq, Repr

/-- The five links. -/
structure Links where
  shore : LinkState
  ships : PerBerth LinkState
  tariff : LinkState
  deriving DecidableEq, Repr

/-- The state of a link. -/
def Links.get (ls : Links) (l : Link) : LinkState :=
  match l with
  | .shore => ls.shore
  | .ship b => ls.ships.get b
  | .tariff => ls.tariff

/-- The same links but for one. -/
def Links.set (ls : Links) (l : Link) (v : LinkState) : Links :=
  match l with
  | .shore => { ls with shore := v }
  | .ship b => { ls with ships := ls.ships.set b v }
  | .tariff => { ls with tariff := v }

/-- Reply statuses (R168), in the order of their octets (R170). -/
inductive Status where
  | done | pending | clamped | refused | unknown
  deriving DecidableEq, Repr

/-- Refusal reasons (R168), in the order of their octets after 00h for none (R170). -/
inductive Reason where
  | wrongStage | noAuthority | notInService | badValue | notPermitted | tooMany | causePresent | busy
  deriving DecidableEq, Repr

/-- What the part sends: frames on its links (R167) and messages on the module bus (R48, R74). A reply's `items` are the
octets after its two status octets; its frames are made from them (R170). -/
inductive Sent where
  | reply (link : Link) (code : Byte) (status : Status) (reason : Option Reason) (items : List Byte)
  | notice (link : Link) (flags : BitVec 64)
  | offer (link : Link) (page : Offer)
  | charge (m : ModuleId)
  | run (m : ModuleId) (b : Berth) (share : Nat)
  | share (m : ModuleId) (share : Nat)
  | drain (m : ModuleId)
  | discharge (m : ModuleId)
  | reference (b : Berth) (mode : RefMode) (word : BitVec 32)
  deriving DecidableEq, Repr

/-- The FB312. `now` is the count of time-base ticks since the release of RESET (R69, log 1); `resetHeld` says that the
RESET line is active (R177); `sent` is what the part sent while the latest command was taken (log 6); `freeCount`
numbers the free choices (logs 8, 9, 20); `pending` is the queue of waiting commands, the front first. -/
structure State where
  now : Nat
  resetHeld : Bool
  links : Links
  berths : PerBerth BerthRecord
  units : PerBerth AgreementUnit
  pool : ModulePool
  references : PerBerth Reference
  capture : Capture
  port : SamplePort
  syncs : PerBerth Synchroniser
  ramps : PerBerth Ramp
  budget : Budget
  sections : PerBerth Section
  meters : PerBerth Meter
  tariff : Tariff
  records : RecordPool
  settings : Settings
  sent : List Sent
  freeCount : Nat
  pending : List Instr
  deriving DecidableEq, Repr

/-- The reasons the part could stop with: none, since no rule of the manual stops it. -/
inductive Fault where
  deriving DecidableEq, Repr

/-- The reasons a command could have no meaning. -/
inductive Refusal where
  /-- raised by an arm of exec that has no meaning yet: none is left; safe -/
  | notModelled (mnemonic : String)
  deriving DecidableEq, Repr

/-- The notice flags of R171 that the shore link, a ship link and the tariff link carry, as masks (R170). -/
def Links.carried (l : Link) : BitVec 64 :=
  match l with
  | .shore => 0xFFFFFFFFFE000000#64
  | .ship _ => 0xFFF0000000000000#64
  | .tariff => 0xE000000000000000#64

/-- A link after the RESET line (R171, R172). -/
def LinkState.reset (l : Link) : LinkState :=
  { up := false, silence := none, flags := 0#64, mask := Links.carried l, outstanding := false, rx := [] }

/-- A berth record after the RESET line (R1). -/
def BerthRecord.reset : BerthRecord :=
  { inService := false, stage := .vacant, holder := .nobody, pendingSince := none, agreement := none, causes := [],
    status := none, moduleCount := 0, summaryReserved := false, linkLost := true, syncHold := false,
    separationCause := none, stageTimer := none, qualification := none }

/-- An Agreement Unit after the RESET line (R28), and in IDLE with all its state discarded (R29). -/
def AgreementUnit.reset : AgreementUnit :=
  { phase := .idle, offer := none, request := none, resolution := none, terms := none, pages := [], lastMark := none,
    lastReply := none, pageWait := none }

/-- A module table entry after a reset at a moment of the elapsed-time count (R46, R47). -/
def Module.reset (moment : Nat) : Module :=
  { state := .dark, berth := none, share := 0, lastChargeStart := moment, entryTime := moment, fault := none,
    timer := none, cycleOpen := true }

/-- The module pool after a reset at a moment of the elapsed-time count (R46, R47). -/
def ModulePool.reset (moment : Nat) : ModulePool :=
  { modules := Vector.replicate 12 (Module.reset moment), plantLastStart := moment, queue := [], chargeList := [] }

/-- A Reference Generator after a reset (R74). -/
def Reference.reset : Reference :=
  { mode := .stopped, accumulator := 0#32, word := 0#32, commanded := none, clamped := false, owed := 0 }

/-- A capture input after the RESET line (R70), and in DEAD (R72). -/
def CaptureRecord.reset : CaptureRecord :=
  { latest := none, previous := none, period := none, valid := false, frequency := none, live := false,
    deadTimer := none }

/-- The sample port receiver after the RESET line (R81): the first strobe comes 100,000 ticks later. -/
def SamplePort.reset : SamplePort :=
  { strobeCount := 0#8, awaited := none, taken := false, last := .same none, age := .same 0, missing := 0,
    badFrames := 0, lateFrames := 0, duplicates := 0, nextStrobe := 100000, strobeTime := 0, frameTime := 0 }

/-- A Synchroniser after a reset (R85). -/
def Synchroniser.reset : Synchroniser :=
  { running := false, count := 0, inFlight := false, failures := 0, syncTimer := none, heldTimeout := false,
    supervision := none, earthCheck := false, last := none, closeLine := false }

/-- A Ramp Unit after a reset (R101). -/
def Ramp.reset : Ramp :=
  { setpoint := 0, wanted := 0, target := 0, rate := 50, state := .idle, capacity := 0, advance := none,
    suspended := false, separationWait := none, separationDelayed := false }

/-- The Import Budget after a reset (R112). -/
def Budget.reset : Budget :=
  { reservations := .same 0, waiting := [], exceeded := false }

/-- Change flags all clear (R121). -/
def ChangeFlags.clear : ChangeFlags :=
  { emergencyStop := false, plugPilot := false, outletAux := false, couplerAux := false, earthResult := false }

/-- A berth section after a reset (R121) whose inputs read as given: both columns of R121's table agree. -/
def Section.reset (emergencyStop plugPilot outletAux couplerAux : Contact) (earth : EarthResult) : Section :=
  { emergencyStop := emergencyStop, plugPilot := plugPilot, outletAux := outletAux, couplerAux := couplerAux,
    earthResult := earth, flags := ChangeFlags.clear, outletCommand := .opened, supervision := .idle,
    couplerOpen := none, schedule := .inactive, checkRequest := false, deferrals := 0, lastCheck := none,
    graceTimer := none, overCapacity := false, overloadTimer := none }

/-- No marks. -/
def Marks.clear : Marks :=
  { partialStart := false, partialEnd := false, stretched := false, estimated := false, gap := false,
    clockSet := false, clockNotSet := false, noTariff := false, trip := false }

/-- Totals of nothing (R137). -/
def Totals.zero : Totals := { delivered := 0, reverse := 0, charges := 0, intervals := 0, peak := 0 }

/-- A Meter channel after the RESET line (R137). -/
def Meter.reset : Meter :=
  { connected := false, terms := none, delivered := 0, reverse := 0, interval := none, missed := 0,
    totals := Totals.zero, held := none }

/-- The Tariff Unit after the RESET line (R147): the clock first advances 1 s later (R151). -/
def Tariff.reset : Tariff :=
  { active := none, pending := none, clock := 0#32, notSet := true, nextAdvance := 10000000 }

/-- The Record Pool after the RESET line (R154). -/
def RecordPool.reset : RecordPool :=
  { slots := Vector.replicate 48 Slot.free, nextNumber := 0#16, tariffQueue := [], copyQueues := .same [],
    missedCopies := .same 0, held := [], poolLow := false, tariffArmed := true, copyArmed := .same true }

/-- The berth settings' defaults (R175). -/
def BerthSettings.default : BerthSettings :=
  { frequencies := .both, voltage := .v11000, moduleLimit := 6, preference := .followPreferred, maxRate := 1000,
    window := 50, slipMin := 10, slipMax := 150, targetSlip := 60, qualifyCount := 3, voltTolerance := 5,
    closingTime := 80, syncTimeout := 180 }

/-- The settings' defaults (R175, R176). -/
def Settings.default : Settings :=
  { berths := .same BerthSettings.default, rating := 2000, intervalLength := 900, tSpace := 15, tCycle := 60,
    importLimit := 20000, threshold := 200 }

/-- The part after the release of the RESET line (R177) with its berths' inputs reading as the given sections show,
before the first reading acts, with nothing sent and nothing waiting. -/
def State.afterReset (sections : PerBerth Section) : State :=
  { now := 0, resetHeld := false,
    links := { shore := LinkState.reset .shore,
               ships := ⟨LinkState.reset (.ship .A), LinkState.reset (.ship .B), LinkState.reset (.ship .C)⟩,
               tariff := LinkState.reset .tariff },
    berths := .same BerthRecord.reset, units := .same AgreementUnit.reset, pool := ModulePool.reset 0,
    references := .same Reference.reset,
    capture := { zs := .same CaptureRecord.reset, zo := .same CaptureRecord.reset }, port := SamplePort.reset,
    syncs := .same Synchroniser.reset, ramps := .same Ramp.reset, budget := Budget.reset, sections := sections,
    meters := .same Meter.reset, tariff := Tariff.reset, records := RecordPool.reset, settings := Settings.default,
    sent := [], freeCount := 0, pending := [] }

/-- The part right after reset. The inputs' levels, which the manual leaves to the berths, are those of an idle berth
with no ship alongside (DESIGN CHOICE, log 4): loop closed, pilot open, both breakers open, earth healthy. -/
def State.reset : State :=
  State.afterReset (.same (Section.reset .closed .opened .opened .opened .healthy))

end Sys2Proof.Machine
end

