-- ==== Sys2Proof/Machine/Operands.lean ====
section
/-! DEFINITION. The operand forms of requests and the item forms of replies (R170): octets, numbers, enumerated fields,
texts, absent items. -/

namespace Sys2Proof.Machine

/-- Big-endian octets of a number (R167). -/
def octets (width n : Nat) : List Byte :=
  match width with
  | 0 => []
  | w + 1 => BitVec.ofNat 8 (n / 256 ^ w) :: octets w n

/-- The number big-endian octets spell (R167). -/
def number (os : List Byte) : Nat :=
  os.foldl (fun n o => n * 256 + o.toNat) 0

/-- A signed number of 16 bits (S_min, R170). -/
def signed16 (os : List Byte) : Int :=
  (BitVec.ofNat 16 (number os)).toInt

/-- An unsigned number in so many octets. One too large for them is sent as a free value (log 21). -/
def field (width n : Nat) : List Byte :=
  octets width (if n < 256 ^ width then n else Config.wideField width n)

/-- A numeric item of a reply: four octets (R170). -/
def num (n : Nat) : List Byte := field 4 n

/-- A signed numeric item of a reply: four octets in two's complement (R170). -/
def snum (v : Int) : List Byte :=
  if -(2 ^ 31) ≤ v ∧ v < 2 ^ 31 then octets 4 (BitVec.ofInt 32 v).toNat else octets 4 (Config.wideField 4 v)

/-- A yes-or-no item: 00h for no, 01h for yes (R170). -/
def flag (x : Bool) : List Byte := [if x then 1#8 else 0#8]

/-- An item that may be absent: 00h and zeros, or 01h and the item, which takes so many octets (R170). -/
def optional {α : Type} (width : Nat) (item : α → List Byte) (x : Option α) : List Byte :=
  match x with
  | none => 0#8 :: List.replicate width 0#8
  | some v => 1#8 :: item v

/-- A numeric item that may be absent. -/
def optNum (x : Option Nat) : List Byte := optional 4 num x

/-- The berth an octet names (R170). -/
def berthOf (o : Byte) : Option Berth :=
  match o.toNat with
  | 0 => some .A
  | 1 => some .B
  | 2 => some .C
  | _ => none

/-- A berth's octet (R170). -/
def berthOctet (b : Berth) : Byte :=
  match b with
  | .A => 0#8
  | .B => 1#8
  | .C => 2#8

/-- The frequency an octet names (R33). -/
def freqOf (o : Byte) : Option Freq :=
  match o.toNat with
  | 0 => some .hz50
  | 1 => some .hz60
  | _ => none

/-- A frequency in mHz (ch. 00). -/
def Freq.mHz (f : Freq) : Nat :=
  match f with
  | .hz50 => 50000
  | .hz60 => 60000

/-- The voltage an octet names (R33). -/
def voltOf (o : Byte) : Option Volt :=
  match o.toNat with
  | 0 => some .v6600
  | 1 => some .v11000
  | _ => none

/-- A voltage in V. -/
def Volt.volts (v : Volt) : Nat :=
  match v with
  | .v6600 => 6600
  | .v11000 => 11000

/-- A voltage's octet. -/
def voltOctet (v : Volt) : Byte :=
  match v with
  | .v6600 => 0#8
  | .v11000 => 1#8

/-- A frequency's octet. -/
def freqOctet (f : Freq) : Byte :=
  match f with
  | .hz50 => 0#8
  | .hz60 => 1#8

/-- The role preference an octet names (R33). -/
def prefOf (o : Byte) : Option RolePref :=
  match o.toNat with
  | 0 => some .formOnly
  | 1 => some .formPreferred
  | 2 => some .followPreferred
  | 3 => some .followOnly
  | _ => none

/-- A role preference's octet. -/
def prefOctet (p : RolePref) : Byte :=
  match p with
  | .formOnly => 0#8
  | .formPreferred => 1#8
  | .followPreferred => 2#8
  | .followOnly => 3#8

/-- The offered frequencies an octet names (R175). -/
def offeredOf (o : Byte) : Option OfferedFreqs :=
  match o.toNat with
  | 0 => some .only50
  | 1 => some .only60
  | 2 => some .both
  | _ => none

/-- The offered frequencies' octet. -/
def offeredOctet (o : OfferedFreqs) : Byte :=
  match o with
  | .only50 => 0#8
  | .only60 => 1#8
  | .both => 2#8

/-- A yes-or-no octet (R170). -/
def yesNoOf (o : Byte) : Option Bool :=
  match o.toNat with
  | 0 => some false
  | 1 => some true
  | _ => none

/-- The page kind an octet names (R38). -/
def pageKindOf (o : Byte) : Option PageKind :=
  match o.toNat with
  | 0 => some .vesselName
  | 1 => some .callSign
  | 2 => some .contract
  | _ => none

/-- A page kind's octet. -/
def pageKindOctet (k : PageKind) : Byte :=
  match k with
  | .vesselName => 0#8
  | .callSign => 1#8
  | .contract => 2#8

/-- A role's octet (R1: SHIP_FORMS or SHORE_FORMS). -/
def roleOctet (r : Role) : Byte :=
  match r with
  | .shipForms => 0#8
  | .shoreForms => 1#8

/-- The text a length octet and eight characters spell: at most 8 characters in 20h to 7Eh (R38, R167). The characters
beyond the length are disregarded, whatever they are (log 38). -/
def textOf (os : List Byte) : Option (List Byte) :=
  match os with
  | [] => none
  | len :: chars =>
    if 8 < len.toNat then none
    else
      let text := chars.take len.toNat
      if text.all fun c => 0x20 ≤ c.toNat && c.toNat ≤ 0x7E then some text else none

/-- A text: a length octet and eight characters, unused ones 20h (R167). -/
def textOctets (text : List Byte) : List Byte :=
  BitVec.ofNat 8 text.length :: (text.take 8 ++ List.replicate (8 - text.length) 0x20#8)

/-- A number kept within a range (R169). -/
def clampTo (low high n : Nat) : Nat := if n < low then low else if high < n then high else n

/-- A signed number kept within a range (R169). -/
def clampInt (low high v : Int) : Int := if v < low then low else if high < v then high else v

/-- A number kept within a range and then taken down to the step below, the steps counted from the low end (R169). -/
def clampStep (low high step n : Nat) : Nat :=
  low + (clampTo low high n - low) / step * step

end Sys2Proof.Machine
end

