-- ==== Sys2Proof/Machine/Flags.lean ====
section
/-! DEFINITION. The notice flags of R171 and their places in a link's flag set (R170): from the most significant bit of
the first octet, in the order of R171's table; on the shore link a per-berth flag takes one bit for each of A, B, C. -/

namespace Sys2Proof.Machine

/-- The notice flags of the shore link (R171). -/
inductive ShoreFlag where
  | stage (b : Berth)
  | authorityWanted (b : Berth)
  | negotiationIncompatible (b : Berth)
  | syncTimeout (b : Berth)
  | closeFailed (b : Berth)
  | trip (b : Berth)
  | inputChange (b : Berth)
  | shipLinkLost (b : Berth)
  | shipBusDead (b : Berth)
  | overloadWarn (b : Berth)
  | separationDelayed (b : Berth)
  | moduleFault
  | importExceeded
  | samplePortSilent
  | poolLow
  | shoreLinkLost
  | tariffLinkLost
  deriving DecidableEq, Repr

/-- The notice flags of a ship link (R171). -/
inductive ShipFlag where
  | stage | authorityGranted | authorityRefused | authoritySeized | syncTimeout | closeFailed | trip | shipBusDead
  | overloadWarn | separationDelayed | moduleLost | copiesAvailable
  deriving DecidableEq, Repr

/-- The notice flags of the tariff link (R171). -/
inductive TariffFlag where
  | poolLow | recordsAvailable | tariffActivated
  deriving DecidableEq, Repr

/-- A berth's octet: 00h for A, 01h for B, 02h for C (R170). -/
def berthNumber (b : Berth) : Nat :=
  match b with
  | .A => 0
  | .B => 1
  | .C => 2

/-- A shore flag's place, counted from the most significant bit (R170, R171). -/
def shoreFlagIndex (f : ShoreFlag) : Nat :=
  match f with
  | .stage b => berthNumber b
  | .authorityWanted b => 3 + berthNumber b
  | .negotiationIncompatible b => 6 + berthNumber b
  | .syncTimeout b => 9 + berthNumber b
  | .closeFailed b => 12 + berthNumber b
  | .trip b => 15 + berthNumber b
  | .inputChange b => 18 + berthNumber b
  | .shipLinkLost b => 21 + berthNumber b
  | .shipBusDead b => 24 + berthNumber b
  | .overloadWarn b => 27 + berthNumber b
  | .separationDelayed b => 30 + berthNumber b
  | .moduleFault => 33
  | .importExceeded => 34
  | .samplePortSilent => 35
  | .poolLow => 36
  | .shoreLinkLost => 37
  | .tariffLinkLost => 38

/-- A ship flag's place (R170, R171). -/
def shipFlagIndex (f : ShipFlag) : Nat :=
  match f with
  | .stage => 0
  | .authorityGranted => 1
  | .authorityRefused => 2
  | .authoritySeized => 3
  | .syncTimeout => 4
  | .closeFailed => 5
  | .trip => 6
  | .shipBusDead => 7
  | .overloadWarn => 8
  | .separationDelayed => 9
  | .moduleLost => 10
  | .copiesAvailable => 11

/-- A tariff flag's place (R170, R171). -/
def tariffFlagIndex (f : TariffFlag) : Nat :=
  match f with
  | .poolLow => 0
  | .recordsAvailable => 1
  | .tariffActivated => 2

/-- The bit at a place of the flag set. -/
def flagBit (index : Nat) : BitVec 64 :=
  1#64 <<< (63 - index)

/-- Is the flag at a place set? -/
def flagSet (flags : BitVec 64) (index : Nat) : Bool :=
  flags.getMsbD index

/-- Put something on its way out (log 6). -/
def emit (x : Sent) (s : State) : State :=
  { s with sent := s.sent ++ [x] }

/-- Send a frame on a link: nothing is sent on a link that is DOWN (R172). -/
def sendOn (l : Link) (x : Sent) (s : State) : State :=
  if (s.links.get l).up then emit x s else s

/-- Replace the state of one link. -/
def State.modLink (s : State) (l : Link) (f : LinkState → LinkState) : State :=
  { s with links := s.links.set l (f (s.links.get l)) }

/-- Send a notice frame carrying the link's whole flag set, and set outstanding (R171). -/
def sendNotice (l : Link) (s : State) : State :=
  emit (.notice l (s.links.get l).flags) (s.modLink l fun k => { k with outstanding := true })

/-- Latch the flag at a place of a link's flag set (R171). -/
def latch (l : Link) (index : Nat) (s : State) : State :=
  let k := s.links.get l
  if flagSet k.flags index then s
  else
    let s := s.modLink l fun k => { k with flags := k.flags ||| flagBit index }
    if flagSet k.mask index && !k.outstanding && k.up then sendNotice l s else s

/-- Latch a flag of the shore link. -/
def latchShore (f : ShoreFlag) (s : State) : State :=
  latch .shore (shoreFlagIndex f) s

/-- Latch a flag of a berth's ship link. -/
def latchShip (b : Berth) (f : ShipFlag) (s : State) : State :=
  latch (.ship b) (shipFlagIndex f) s

/-- Latch a flag of the tariff link. -/
def latchTariff (f : TariffFlag) (s : State) : State :=
  latch .tariff (tariffFlagIndex f) s

/-- Send a notice frame if any enabled flag is set while outstanding is clear and the link is up (R171, at a link's
return and at Set Notice Mask). -/
def noticeIfEnabled (l : Link) (s : State) : State :=
  let k := s.links.get l
  if (k.flags &&& k.mask) ≠ 0#64 && !k.outstanding && k.up then sendNotice l s else s

end Sys2Proof.Machine
end

