-- ==== Sys2Proof/Machine/Ops.lean ====
section
/-! DEFINITION. The named operations over the state's parts: reading and replacing one berth's part, time and its
reference accumulators, and the free order of the berths. -/

namespace Sys2Proof.Machine

/-- Ticks of the time base in one millisecond (R69). -/
def ticksPerMs : Nat := 10000

/-- Ticks of the time base in one second (R69). -/
def ticksPerSecond : Nat := 10000000

/-- The three berths. -/
def allBerths : List Berth := [.A, .B, .C]

/-- The twelve modules, lowest-numbered first. -/
def allModules : List ModuleId := [0, 1, 2, 3, 4, 5, 6, 7, 8, 9, 10, 11]

/-- A berth's record. -/
def State.berth (s : State) (b : Berth) : BerthRecord := s.berths.get b

/-- Change a berth's record. -/
def State.modBerth (s : State) (b : Berth) (f : BerthRecord → BerthRecord) : State :=
  { s with berths := s.berths.set b (f (s.berths.get b)) }

/-- A berth's Agreement Unit. -/
def State.unit (s : State) (b : Berth) : AgreementUnit := s.units.get b

/-- Change a berth's Agreement Unit. -/
def State.modUnit (s : State) (b : Berth) (f : AgreementUnit → AgreementUnit) : State :=
  { s with units := s.units.set b (f (s.units.get b)) }

/-- A berth's Reference Generator. -/
def State.reference (s : State) (b : Berth) : Reference := s.references.get b

/-- Change a berth's Reference Generator. -/
def State.modReference (s : State) (b : Berth) (f : Reference → Reference) : State :=
  { s with references := s.references.set b (f (s.references.get b)) }

/-- A berth's Synchroniser. -/
def State.sync (s : State) (b : Berth) : Synchroniser := s.syncs.get b

/-- Change a berth's Synchroniser. -/
def State.modSync (s : State) (b : Berth) (f : Synchroniser → Synchroniser) : State :=
  { s with syncs := s.syncs.set b (f (s.syncs.get b)) }

/-- A berth's Ramp Unit. -/
def State.ramp (s : State) (b : Berth) : Ramp := s.ramps.get b

/-- Change a berth's Ramp Unit. -/
def State.modRamp (s : State) (b : Berth) (f : Ramp → Ramp) : State :=
  { s with ramps := s.ramps.set b (f (s.ramps.get b)) }

/-- A berth's section of the Protection Unit. -/
def State.sec (s : State) (b : Berth) : Section := s.sections.get b

/-- Change a berth's section of the Protection Unit. -/
def State.modSec (s : State) (b : Berth) (f : Section → Section) : State :=
  { s with sections := s.sections.set b (f (s.sections.get b)) }

/-- A berth's Meter channel. -/
def State.meter (s : State) (b : Berth) : Meter := s.meters.get b

/-- Change a berth's Meter channel. -/
def State.modMeter (s : State) (b : Berth) (f : Meter → Meter) : State :=
  { s with meters := s.meters.set b (f (s.meters.get b)) }

/-- A module's table entry. -/
def State.module (s : State) (m : ModuleId) : Module := s.pool.modules.get m

/-- Change a module's table entry. -/
def State.modModule (s : State) (m : ModuleId) (f : Module → Module) : State :=
  { s with pool := { s.pool with modules := s.pool.modules.set m.val (f (s.pool.modules.get m)) } }

/-- A berth's settings. -/
def State.setting (s : State) (b : Berth) : BerthSettings := s.settings.berths.get b

/-- A capture input. -/
def State.input (s : State) (side : BusSide) (b : Berth) : CaptureRecord :=
  match side with
  | .ship => s.capture.zs.get b
  | .outlet => s.capture.zo.get b

/-- Change a capture input. -/
def State.modInput (s : State) (side : BusSide) (b : Berth) (f : CaptureRecord → CaptureRecord) : State :=
  match side with
  | .ship => { s with capture := { s.capture with zs := s.capture.zs.set b (f (s.capture.zs.get b)) } }
  | .outlet => { s with capture := { s.capture with zo := s.capture.zo.set b (f (s.capture.zo.get b)) } }

/-- The 32-bit time base (R69). -/
def State.timeBase (s : State) : TimeStamp := BitVec.ofNat 32 s.now

/-- The elapsed-time count in milliseconds, 48 bits wide (ch. 03). -/
def State.elapsedMs (s : State) : Nat := s.now / ticksPerMs % 2 ^ 48

/-- A timer's expiry so many milliseconds from now. -/
def State.inMs (s : State) (ms : Nat) : Nat := s.now + ms * ticksPerMs

/-- A timer's expiry so many seconds from now. -/
def State.inSeconds (s : State) (seconds : Nat) : Nat := s.now + seconds * ticksPerSecond

/-- The carries of an accumulator in so many ticks: each is a reference crossing (R74). -/
def Reference.carries (dt : Nat) (r : Reference) : Nat :=
  (r.accumulator.toNat + r.word.toNat * dt) / 2 ^ 32

/-- A Reference Generator after so many ticks: the word is added at every tick (R74). A carry at the last of them falls
together with what happens then, and is owed its message (log 30). -/
def Reference.run (dt : Nat) (r : Reference) : Reference :=
  if r.mode = .stopped ∨ dt = 0 then r
  else
    { r with accumulator := BitVec.ofNat 32 (r.accumulator.toNat + r.word.toNat * dt),
             owed := r.carries dt - r.carries (dt - 1) }

/-- The tick, counted from now, at which an accumulator carries for the (k + 1)-th time. -/
def Reference.carryTick (r : Reference) (k : Nat) : Nat :=
  ((k + 1) * 2 ^ 32 - r.accumulator.toNat + r.word.toNat - 1) / r.word.toNat

/-- The REFERENCE messages of a berth, each with its tick, that go out before so many ticks have passed: one for each
crossing owed and one for each carry before the last tick (R74). -/
def crossingsPassed (dt : Nat) (b : Berth) (r : Reference) : List (Nat × Sent) :=
  if r.mode = .stopped ∨ dt = 0 then []
  else
    (List.replicate r.owed 0 ++ (List.range (r.carries (dt - 1))).map r.carryTick).map fun t =>
      (t, .reference b r.mode r.word)

/-- Put something among what stands in the order of its ticks, behind what has the same tick. -/
def insertByTick {α : Type} (x : Nat × α) (l : List (Nat × α)) : List (Nat × α) :=
  match l with
  | [] => [x]
  | y :: rest => if x.1 < y.1 then x :: y :: rest else y :: insertByTick x rest

/-- The REFERENCE messages of the three berths that go out before so many ticks have passed, in the order of their ticks;
at one tick A's stands before B's and B's before C's (log 30). -/
def referenceMessages (dt : Nat) (s : State) : List Sent :=
  ((crossingsPassed dt .C s.references.c).foldl (fun l x => insertByTick x l)
    ((crossingsPassed dt .B s.references.b).foldl (fun l x => insertByTick x l)
      (crossingsPassed dt .A s.references.a))).map Prod.snd

/-- Let so many ticks of the time base pass, with the REFERENCE messages of the crossings that fall meanwhile. -/
def advance (dt : Nat) (s : State) : State :=
  { s with now := s.now + dt,
           references := ⟨s.references.a.run dt, s.references.b.run dt, s.references.c.run dt⟩,
           sent := s.sent ++ referenceMessages dt s }

/-- Carry the time forward to a moment; a moment that has passed changes nothing (log 3). -/
def advanceTo (moment : Nat) (s : State) : State :=
  advance (moment - s.now) s

/-- The berths in a taken order. -/
def orderList (o : BerthOrder) : List Berth :=
  match o with
  | .abc => [.A, .B, .C]
  | .acb => [.A, .C, .B]
  | .bac => [.B, .A, .C]
  | .bca => [.B, .C, .A]
  | .cab => [.C, .A, .B]
  | .cba => [.C, .B, .A]

/-- Serve the berths, each by `f`, in the order taken: a free value where more than one berth is concerned (R144, R157;
log 8). -/
def serveBerths (concerned : Berth → Bool) (f : Berth → State → State) (s : State) : State :=
  if (allBerths.filter concerned).length ≤ 1 then allBerths.foldl (fun s b => f b s) s
  else
    (orderList (Config.takenOrder s.freeCount)).foldl (fun s b => f b s) { s with freeCount := s.freeCount + 1 }

end Sys2Proof.Machine
end

