-- ==== Sys2Proof/Machine/Records.lean ====
section
/-! DEFINITION. The Record Pool (ch. 09): slots, writing, reservations, release of slots, pool-low, the export queues. -/

namespace Sys2Proof.Machine

/-- Is the slot FREE? -/
def Slot.isFree (x : Slot) : Bool :=
  match x with
  | .free => true
  | _ => false

/-- Is the slot RESERVED for the berth? -/
def Slot.isReservedFor (b : Berth) (x : Slot) : Bool :=
  match x with
  | .reserved c => c == b
  | _ => false

/-- Is the slot RESERVED? -/
def Slot.isReserved (x : Slot) : Bool :=
  match x with
  | .reserved _ => true
  | _ => false

/-- Is the slot USED? -/
def Slot.isUsed (x : Slot) : Bool :=
  match x with
  | .used _ _ _ => true
  | _ => false

/-- The 48 slots, lowest-numbered first. -/
def allSlots : List SlotId := List.finRange 48

/-- The FREE slots, lowest-numbered first. -/
def RecordPool.freeSlots (p : RecordPool) : List SlotId :=
  allSlots.filter fun i => (p.slots.get i).isFree

/-- The slots RESERVED for a berth, lowest-numbered first: its reservation (R154). -/
def RecordPool.reservedSlots (p : RecordPool) (b : Berth) : List SlotId :=
  allSlots.filter fun i => (p.slots.get i).isReservedFor b

/-- The free count (R154). -/
def RecordPool.freeSlotCount (p : RecordPool) : Nat :=
  (allSlots.filter fun i => (p.slots.get i).isFree).length

/-- The used count (R154). -/
def RecordPool.usedSlotCount (p : RecordPool) : Nat :=
  (allSlots.filter fun i => (p.slots.get i).isUsed).length

/-- The reserved count (R154). -/
def RecordPool.reservedSlotCount (p : RecordPool) : Nat :=
  (allSlots.filter fun i => (p.slots.get i).isReserved).length

/-- Change the Record Pool. -/
def State.modRecords (s : State) (f : RecordPool → RecordPool) : State :=
  { s with records := f s.records }

/-- Put something in a slot. -/
def setSlot (i : SlotId) (x : Slot) (s : State) : State :=
  s.modRecords fun p => { p with slots := p.slots.set i.val x }

/-- Test the pool-low condition, at a change of the free count (R160). -/
def testPoolLow (s : State) : State :=
  let free := s.records.freeSlotCount
  if !s.records.poolLow && free < 4 then
    latchTariff .poolLow (latchShore .poolLow (s.modRecords fun p => { p with poolLow := true }))
  else if s.records.poolLow && 8 ≤ free then s.modRecords fun p => { p with poolLow := false }
  else s

/-- The slots of a record, the lower-numbered first. -/
def RecordRef.slots (r : RecordRef) : List SlotId := r.first :: r.second.toList

/-- The berth of a record. -/
def PoolRecord.berth (r : PoolRecord) : Berth :=
  match r with
  | .interval x => x.berth
  | .summary x => x.berth

/-- Lower the reference count of one slot by 1; the answer says whether it has reached 0 (R155). -/
def lowerSlot (i : SlotId) (s : State) : State × Bool :=
  match s.records.slots.get i with
  | .used n r c => (setSlot i (.used n r (c - 1)) s, c ≤ 1)
  | _ => (s, false)

/-- Lower the reference count of a record's slots by 1, and give the slots whose count has reached 0 (R155). -/
def lowerCount (r : RecordRef) (s : State) : State × List SlotId :=
  r.slots.foldl
    (fun (acc : State × List SlotId) i =>
      let (s, zero) := lowerSlot i acc.1
      (s, if zero then acc.2 ++ [i] else acc.2))
    (s, [])

/-- Join the tariff queue at its tail, with its notice (R161). -/
def joinTariffQueue (r : RecordRef) (s : State) : State :=
  let latches := s.records.tariffQueue.isEmpty && s.records.tariffArmed
  let s := s.modRecords fun p => { p with tariffQueue := p.tariffQueue ++ [r] }
  if latches then latchTariff .recordsAvailable (s.modRecords fun p => { p with tariffArmed := false }) else s

/-- Drop the oldest copy of a full copy queue, and give the slots whose count reaches 0 (R163). -/
def dropOldest (b : Berth) (s : State) : State × List SlotId :=
  match s.records.copyQueues.get b with
  | [] => (s, [])
  | oldest :: rest =>
    lowerCount oldest
      (s.modRecords fun p =>
        { p with copyQueues := p.copyQueues.set b rest,
                 missedCopies := p.missedCopies.set b (min 255 (p.missedCopies.get b + 1)) })

/-- Raise the reference count of a record's slots to 2 (R156). -/
def raiseCount (r : RecordRef) (s : State) : State :=
  r.slots.foldl
    (fun s i =>
      match s.records.slots.get i with
      | .used n x _ => setSlot i (.used n x 2) s
      | _ => s)
    s

/-- Join a berth's ship copy queue at its tail, with its notice (R163). -/
def joinCopyQueue (b : Berth) (r : RecordRef) (s : State) : State :=
  let latches := (s.records.copyQueues.get b).isEmpty && s.records.copyArmed.get b
  let s := raiseCount r
    (s.modRecords fun p => { p with copyQueues := p.copyQueues.set b (p.copyQueues.get b ++ [r]) })
  if latches then
    latchShip b .copiesAvailable (s.modRecords fun p => { p with copyArmed := p.copyArmed.set b false })
  else s

/-- The place of the next record to be written, in its slot or slots. -/
def State.nextRef (s : State) (first : SlotId) (second : Option SlotId) : RecordRef :=
  { number := s.records.nextNumber, first := first, second := second }

/-- Fill slots with a record, its count 1. -/
def fillSlots (n : BitVec 16) (r : PoolRecord) (l : List SlotId) (s : State) : State :=
  l.foldl (fun s i => setSlot i (.used n r 1) s) s

/-- Steps 1 to 3 of a record's writing (R156): its number, its slots, the tariff queue. -/
def beginRecord (r : PoolRecord) (ref : RecordRef) (s : State) : State :=
  joinTariffQueue ref
    (fillSlots ref.number r ref.slots (s.modRecords fun p => { p with nextNumber := ref.number + 1#16 }))

/-- What the Record Pool still has to do within one event: examine a slot set free (R159), or let a record join its berth's
ship copy queue (R156, steps 4 to 6). -/
inductive PoolTask where
  | release (slot : SlotId)
  | join (b : Berth) (ref : RecordRef)
  deriving DecidableEq, Repr

/-- Is a task a joining of a berth's copy queue? -/
def PoolTask.joins (b : Berth) (t : PoolTask) : Bool :=
  match t with
  | .join c _ => c == b
  | .release _ => false

/-- Put a record's joining first, or behind the last one for the same queue, which holds its records in the order of
writing (R163; log 16). -/
def insertJoin (b : Berth) (ref : RecordRef) (tasks : List PoolTask) : List PoolTask :=
  match tasks with
  | [] => [.join b ref]
  | t :: rest =>
    if rest.any (PoolTask.joins b) then t :: insertJoin b ref rest
    else if t.joins b then t :: .join b ref :: rest
    else .join b ref :: t :: rest

/-- Do the tasks in order. A slot set free becomes FREE with no record held; otherwise the held record at the list's head
is written into it (R159). A record that finds its copy queue with 8 first has the oldest dropped, with the slots that
this sets free (R163), and then joins, after which the pool-low condition is tested (R156). -/
def poolWork (fuel : Nat) (tasks : List PoolTask) (s : State) : State :=
  match fuel, tasks with
  | 0, _ => s
  | _, [] => s
  | fuel + 1, .release i :: rest =>
    match s.records.held with
    | [] => poolWork fuel rest (testPoolLow (setSlot i .free s))
    | h :: hs =>
      let held := (s.meter h.berth).held
      let s := (s.modRecords fun p => { p with held := hs }).modMeter h.berth fun m => { m with held := none }
      match held with
      | none => poolWork fuel (.release i :: rest) s
      | some r =>
        poolWork fuel (if h.copyWanted then insertJoin r.berth (s.nextRef i none) rest else rest)
          (beginRecord (.interval r) (s.nextRef i none) s)
  | fuel + 1, .join b ref :: rest =>
    if 8 ≤ (s.records.copyQueues.get b).length then
      poolWork fuel ((dropOldest b s).2.map PoolTask.release ++ .join b ref :: rest) (dropOldest b s).1
    else poolWork fuel rest (testPoolLow (joinCopyQueue b ref s))

/-- Turns enough for every task: each ends a task, takes a held record or drops a copy, and each drop sets at most two
slots free. -/
def State.poolTurns (s : State) (tasks : Nat) : Nat :=
  5 * (tasks + s.records.held.length) +
    3 * (s.records.copyQueues.a.length + s.records.copyQueues.b.length + s.records.copyQueues.c.length)

/-- Release slots (R159). -/
def releaseSlots (work : List SlotId) (s : State) : State :=
  poolWork (s.poolTurns work.length) (work.map PoolTask.release) s

/-- Write a record into its slot or slots (R156). -/
def writeRecord (r : PoolRecord) (first : SlotId) (second : Option SlotId) (s : State) : State :=
  poolWork (s.poolTurns 1) [.join r.berth (s.nextRef first second)] (beginRecord r (s.nextRef first second) s)

/-- Ask for a summary reservation (R158): the state, and whether it is granted. -/
def reserveSummary (b : Berth) (s : State) : State × Bool :=
  if !(s.records.reservedSlots b).isEmpty then (s, true)
  else
    match s.records.freeSlots with
    | i :: j :: _ =>
      (testPoolLow
        ((setSlot j (.reserved b) (setSlot i (.reserved b) s)).modBerth b fun r => { r with summaryReserved := true }),
       true)
    | _ => (s, false)

/-- Return a summary reservation (R158). -/
def returnReservation (b : Berth) (s : State) : State :=
  releaseSlots (s.records.reservedSlots b) (s.modBerth b fun r => { r with summaryReserved := false })

/-- Write a Connection Summary into the berth's two reserved slots (R146, R158). Without a reservation, which no run
leaves a connection with, nothing is written (log 29). -/
def writeSummary (b : Berth) (r : SummaryRecord) (s : State) : State :=
  let s := s.modBerth b fun x => { x with summaryReserved := false }
  match s.records.reservedSlots b with
  | i :: j :: _ => writeRecord (.summary r) i (some j) s
  | _ => s

/-- Lower a record's count and release what reaches 0 (R162, R164, R165). -/
def releaseEntry (r : RecordRef) (s : State) : State :=
  let (s, freed) := lowerCount r s
  releaseSlots freed s

/-- Remove the records of a berth's copy queue, one at a time from the head (R165). -/
def removeCopies (b : Berth) (queue : List RecordRef) (s : State) : State :=
  match queue with
  | [] => s
  | r :: rest =>
    removeCopies b rest
      (releaseEntry r (s.modRecords fun p => { p with copyQueues := p.copyQueues.set b rest }))

/-- Empty a berth's ship copy queue at its entry to VACANT (R165). The marks of its held records are cleared first
(log 17). -/
def emptyCopies (b : Berth) (s : State) : State :=
  let s := s.modRecords fun p =>
    { p with held := p.held.map fun h => if h.berth = b then { h with copyWanted := false } else h }
  let s := removeCopies b (s.records.copyQueues.get b) s
  s.modRecords fun p => { p with missedCopies := p.missedCopies.set b 0, copyArmed := p.copyArmed.set b true }

end Sys2Proof.Machine
end

