-- ==== Sys2Proof/Machine/Metering.lean ====
section
/-! DEFINITION. The Meter channels and the Tariff Unit (ch. 08): accumulation, intervals, connections, bands, swaps. -/

namespace Sys2Proof.Machine

/-- The band and rate an interval starting at a second receives, and whether no table was active (R149). -/
def bandAndRate (active : Option TariffTable) (start : BitVec 32) : Nat × Nat × Bool :=
  match active with
  | none => (0, 0, true)
  | some t =>
    let second := start.toNat % 86400
    let point := ((t.points.filter fun p => p.second ≤ second).getLast?).or t.points.getLast?
    match point with
    | none => (0, 0, false)
    | some p => (p.band, t.rates.getD (p.band - 1) 0, false)

/-- A new interval at the present harbour clock, with the marks it begins with beside those its clock and table give
(R142). -/
def newInterval (marks : Marks) (s : State) : Interval :=
  let (band, rate, noTariff) := bandAndRate s.tariff.active s.tariff.clock
  { start := s.tariff.clock, elapsed := 0, band := band, rate := rate,
    marks := { marks with clockNotSet := s.tariff.notSet, noTariff := noTariff }, merged := 0 }

/-- The contract text: that of the first CONTRACT page, if any (R42). -/
def contractText (pages : List Page) : Option (List Byte) :=
  (pages.find? fun p => decide (p.kind = .contract)).map Page.text

/-- Begin a connection at the entry to PARALLEL (R138). -/
def beginConnection (b : Berth) (s : State) : State :=
  let charge := (s.tariff.active.map TariffTable.charge).getD 0
  let terms := (s.berth b).agreement.map fun a =>
    { frequency := a.frequency, voltage := a.voltage, agreedKw := a.agreedKw, role := a.role, pages := a.pages,
      contract := contractText a.pages, connectedAt := s.tariff.clock, clockNotSet := s.tariff.notSet,
      charge := charge : ConnectionTerms }
  s.modMeter b fun m =>
    { m with connected := true, terms := terms, delivered := 0, reverse := 0, totals := Totals.zero,
             interval := some (newInterval { Marks.clear with partialStart := true } s) }

/-- Add to an accumulator. What it holds beyond 2^64 − 1 cJ is a free value (log 20). -/
def addEnergy (accumulator amount : Nat) (s : State) : Nat × State :=
  if accumulator + amount < 2 ^ 64 then (accumulator + amount, s)
  else ((Config.accumulatorOverflow s.freeCount).toNat, { s with freeCount := s.freeCount + 1 })

/-- Accumulate the active power of one measurement period (R140). -/
def accumulate (b : Berth) (power : BitVec 32) (s : State) : State :=
  let p := power.toInt
  if 0 < p then
    let (n, s) := addEnergy (s.meter b).delivered p.toNat s
    s.modMeter b fun m => { m with delivered := n }
  else if p < 0 then
    let (n, s) := addEnergy (s.meter b).reverse p.natAbs s
    s.modMeter b fun m => { m with reverse := n }
  else s

/-- Change the marks of a channel's current interval. -/
def markInterval (b : Berth) (f : Marks → Marks) (s : State) : State :=
  s.modMeter b fun m => { m with interval := m.interval.map fun i => { i with marks := f i.marks } }

/-- A taken frame at a channel (R140). -/
def meterFrame (b : Berth) (power : BitVec 32) (s : State) : State :=
  let s := if (s.meter b).connected then accumulate b power s else s
  s.modMeter b fun m => { m with missed := 0 }

/-- A missing period at a channel (R141). -/
def meterMissing (b : Berth) (s : State) : State :=
  let s := s.modMeter b fun m => { m with missed := min 65535 (m.missed + 1) }
  let m := s.meter b
  if !m.connected then s
  else
    match s.port.last.get b with
    | some v =>
      if m.missed ≤ 5 then markInterval b (fun k => { k with estimated := true }) (accumulate b v.power s)
      else markInterval b (fun k => { k with gap := true }) s
    | none => markInterval b (fun k => { k with gap := true }) s

/-- Centijoules in a watt-hour (ch. 00). -/
def cjPerWh : Nat := 360000

/-- The average demand in kW of so many Wh over a length in seconds (R143). -/
def averageDemand (wh length : Nat) : Nat :=
  if length = 0 then 0 else wh * 3600 / (length * 1000)

/-- The record of an interval closed at the present accumulators (R143). -/
def closedRecord (b : Berth) (m : Meter) (i : Interval) : IntervalRecord :=
  let wh := m.delivered / cjPerWh
  { berth := b, contract := m.terms.bind ConnectionTerms.contract, start := i.start, length := i.elapsed,
    band := i.band, delivered := wh, reverse := m.reverse / cjPerWh, charge := wh * i.rate,
    demand := averageDemand wh i.elapsed, marks := i.marks, merged := i.merged }

/-- May the interval enter the peak demand? (R143) -/
def entersPeak (k : Marks) : Bool :=
  !k.partialStart && !k.partialEnd && !k.stretched

/-- The totals with a closed interval's figures added (R143). -/
def Totals.add (t : Totals) (r : IntervalRecord) : Totals :=
  { delivered := t.delivered + r.delivered, reverse := t.reverse + r.reverse, charges := t.charges + r.charge,
    intervals := t.intervals + 1,
    peak := if entersPeak r.marks && t.peak < r.demand then r.demand else t.peak }

/-- Close a channel's interval: whole watt-hours leave the accumulators and join the totals (R143). -/
def closeInterval (b : Berth) (r : IntervalRecord) (s : State) : State :=
  s.modMeter b fun m =>
    { m with delivered := m.delivered % cjPerWh, reverse := m.reverse % cjPerWh, interval := none,
             totals := m.totals.add r }

/-- Close a channel's interval and write its record if a slot is free (R143, R157); the answer says whether it was. -/
def closeIfFree (b : Berth) (s : State) : State × Bool :=
  match (s.meter b).interval, s.records.freeSlots with
  | some i, slot :: _ =>
    let r := closedRecord b (s.meter b) i
    (writeRecord (.interval r) slot none (closeInterval b r s), true)
  | _, _ => (s, false)

/-- Stretch a channel's interval (R144). -/
def stretchInterval (b : Berth) (s : State) : State :=
  s.modMeter b fun m =>
    { m with interval := m.interval.map fun i =>
               { i with marks := { i.marks with stretched := true }, merged := min 255 (i.merged + 1) } }

/-- Begin a channel's next interval (R142). -/
def nextInterval (b : Berth) (marks : Marks) (s : State) : State :=
  s.modMeter b fun m => { m with interval := some (newInterval marks s) }

/-- A boundary at a channel: close, or stretch where no slot is free (R143, R144). -/
def channelBoundary (b : Berth) (s : State) : State :=
  if !(s.meter b).connected then s
  else
    let (s, closed) := closeIfFree b s
    if closed then nextInterval b Marks.clear s else stretchInterval b s

/-- The final interval of a connection: written if a slot is free, held otherwise (R145). -/
def closeFinal (b : Berth) (tripped : Bool) (s : State) : State :=
  let s := markInterval b (fun k => { k with partialEnd := true, trip := k.trip || tripped }) s
  match (s.meter b).interval with
  | none => s
  | some i =>
    let r := closedRecord b (s.meter b) i
    let s := closeInterval b r s
    match s.records.freeSlots with
    | slot :: _ => writeRecord (.interval r) slot none s
    | [] =>
      (s.modMeter b fun m => { m with held := some r }).modRecords fun p =>
        { p with held := p.held ++ [{ berth := b, copyWanted := true }] }

/-- The Connection Summary of a channel whose final interval has been closed (R146). -/
def summaryOf (b : Berth) (m : Meter) (t : ConnectionTerms) (separatedAt : BitVec 32) (cause : EndCause) :
    SummaryRecord :=
  { berth := b, terms := t, separatedAt := separatedAt, delivered := m.totals.delivered, reverse := m.totals.reverse,
    deliveredResidue := m.delivered, reverseResidue := m.reverse,
    totalCharge := m.totals.charges + t.charge * 1000000, peak := m.totals.peak, intervals := m.totals.intervals,
    endCause := cause }

/-- Does the end cause say TRIP? -/
def EndCause.isTrip (c : EndCause) : Bool :=
  match c with
  | .trip _ => true
  | .separated _ => false

/-- End a connection, if one is open (R139). -/
def endConnection (b : Berth) (cause : EndCause) (s : State) : State :=
  if !(s.meter b).connected then s
  else
    let separatedAt := s.tariff.clock
    let s := closeFinal b cause.isTrip s
    let s :=
      match (s.meter b).terms with
      | some t => writeSummary b (summaryOf b (s.meter b) t separatedAt cause) s
      | none => s
    s.modMeter b fun m =>
      { m with connected := false, terms := none, delivered := 0, reverse := 0, interval := none }

/-- Make the pending table the active one, if there is one (R150). -/
def swapTables (s : State) : State :=
  match s.tariff.pending with
  | none => s
  | some t =>
    latchTariff .tariffActivated { s with tariff := { s.tariff with active := some t, pending := none } }

/-- Is a channel's connection open? -/
def State.isConnected (s : State) (b : Berth) : Bool := (s.meter b).connected

/-- One advance of the harbour clock, with its boundary if it makes one (R151). -/
def advanceClock (s : State) : State :=
  let s : State := { s with tariff := { s.tariff with clock := s.tariff.clock + 1#32 } }
  let s : State := allBerths.foldl
    (fun (s : State) b => s.modMeter b fun m =>
      { m with interval := m.interval.map fun i => { i with elapsed := i.elapsed + 1 } }) s
  if s.tariff.clock.toNat % s.settings.intervalLength = 0 then
    let s := swapTables s
    serveBerths s.isConnected channelBoundary s
  else s

/-- Step 1 of a Set Clock at a channel: mark the interval, and close it or stretch it (R152). -/
def clockSetClose (b : Berth) (s : State) : State :=
  if !(s.meter b).connected then s
  else
    let s := markInterval b (fun k => { k with clockSet := true }) s
    let (s, closed) := closeIfFree b s
    if closed then s else stretchInterval b s

/-- Step 4 of a Set Clock: a channel whose interval was closed begins a new one (R152). -/
def clockSetBegin (b : Berth) (s : State) : State :=
  let m := s.meter b
  if m.connected && m.interval.isNone then nextInterval b { Marks.clear with clockSet := true } s else s

/-- Set the harbour clock (R152). -/
def setHarbourClock (value : BitVec 32) (s : State) : State :=
  let s := serveBerths s.isConnected clockSetClose s
  let s := { s with tariff := { s.tariff with clock := value, notSet := false, nextAdvance := s.inSeconds 1 } }
  let s := swapTables s
  allBerths.foldl (fun s b => clockSetBegin b s) s

end Sys2Proof.Machine
end

