-- ==== Sys2Proof/Machine/Ramps.lean ====
section
/-! DEFINITION. The Ramp Units, the module shares and the Import Budget (R66, R67, ch. 06), short of the stage changes a
separation test makes. -/

namespace Sys2Proof.Machine

/-- A berth's RUNNING modules, lowest-numbered first. -/
def State.runningOf (s : State) (b : Berth) : List ModuleId :=
  allModules.filter fun m => decide ((s.module m).state = .running) && decide ((s.module m).berth = some b)

/-- The share of the RUNNING module at a place (from 0) among n, of a setpoint S (R67). -/
def shareAt (setpoint n place : Nat) : Nat :=
  setpoint / n + (if place < setpoint % n then 1 else 0)

/-- Divide the setpoint over the modules from a place on, sending SHARE where a share changes. -/
def writeShares (setpoint n place : Nat) (modules : List ModuleId) (s : State) : State :=
  match modules with
  | [] => s
  | m :: rest =>
    let v := shareAt setpoint n place
    let changed := (s.module m).share ≠ v
    let s := s.modModule m fun x => { x with share := v }
    writeShares setpoint n (place + 1) rest (if changed then emit (.share m v) s else s)

/-- Recompute the shares of a berth's RUNNING modules (R67). -/
def recomputeShares (b : Berth) (s : State) : State :=
  let modules := s.runningOf b
  writeShares (s.ramp b).setpoint modules.length 0 modules s

/-- A berth's agreed kW. -/
def State.agreedKw (s : State) (b : Berth) : Nat :=
  ((s.berth b).agreement.map Agreement.agreedKw).getD 0

/-- The bounded target B (R102). -/
def State.boundedTarget (s : State) (b : Berth) : Nat :=
  min (s.ramp b).wanted (min (s.agreedKw b) (s.ramp b).capacity)

/-- A berth's need: the larger of S and B (R102). -/
def State.need (s : State) (b : Berth) : Nat :=
  max (s.ramp b).setpoint (s.boundedTarget b)

/-- A berth's reservation. -/
def State.reservation (s : State) (b : Berth) : Nat := s.budget.reservations.get b

/-- The sum of the three reservations. -/
def State.reserved (s : State) : Nat :=
  s.budget.reservations.a + s.budget.reservations.b + s.budget.reservations.c

/-- The headroom H, signed (R112). -/
def State.headroom (s : State) : Int := (s.settings.importLimit : Int) - (s.reserved : Int)

/-- Set a berth's reservation. -/
def State.setReservation (s : State) (b : Berth) (v : Nat) : State :=
  { s with budget := { s.budget with reservations := s.budget.reservations.set b v } }

/-- Replace the waiting list. -/
def State.setWaiting (s : State) (l : List WaitEntry) : State :=
  { s with budget := { s.budget with waiting := l } }

/-- A berth's waiting-list entry. -/
def State.waitEntry (s : State) (b : Berth) : Option WaitEntry :=
  s.budget.waiting.find? fun e => decide (e.berth = b)

/-- The stages in which a target is worked out (R102). -/
def Stage.ramps (g : Stage) : Bool :=
  match g with
  | .parallel | .rampingIn | .rampingOut => true
  | _ => false

/-- The ramp state after a recomputation of T (R102). -/
def Ramp.settle (firstAdvance target : Nat) (r : Ramp) : Ramp :=
  match r.state with
  | .idle =>
    if target = r.setpoint then { r with target := target }
    else { r with target := target, state := .moving, advance := some firstAdvance }
  | .moving =>
    if target = r.setpoint then { r with target := target, state := .idle, advance := none }
    else { r with target := target }
  | .held => { r with target := target }

/-- Recompute a berth's effective target (R102). -/
def retarget (b : Berth) (s : State) : State :=
  if (s.berth b).stage.ramps then
    s.modRamp b (Ramp.settle (s.inMs 100) (min (s.boundedTarget b) (s.reservation b)))
  else s

/-- Offer the headroom to the waiting list, head by head (R115). -/
def offer (fuel : Nat) (s : State) : State :=
  match fuel, s.budget.waiting with
  | 0, _ => s
  | _, [] => s
  | fuel + 1, e :: rest =>
    let held := s.reservation e.berth
    let given := min (e.wanted - held) s.headroom.toNat
    let s := if given = 0 then s else retarget e.berth (s.setReservation e.berth (held + given))
    if e.wanted ≤ held + given then offer fuel (s.setWaiting rest) else s

/-- Offer the headroom as it stands (R115). -/
def offerHeadroom (s : State) : State :=
  offer s.budget.waiting.length s

/-- Remove a berth's waiting-list entry, if any, and offer a new head what headroom there is (R116). -/
def dropWaiting (b : Berth) (s : State) : State :=
  if (s.waitEntry b).isSome then
    offerHeadroom (s.setWaiting (s.budget.waiting.filter fun e => decide (e.berth ≠ b)))
  else s

/-- Lower a waiting entry to its berth's need, and remove it if its reservation satisfies it (R114). -/
def lowerEntries (b : Berth) (need reservation : Nat) (l : List WaitEntry) : List WaitEntry :=
  (l.map fun e => if e.berth = b && need < e.wanted then { e with wanted := need } else e).filter
    fun e => !(e.berth == b && e.wanted ≤ reservation)

/-- Outside SHORE_CARRYING a reservation falls with its berth's need (R114). -/
def lowerReservation (b : Berth) (s : State) : State :=
  if (s.berth b).stage = .shoreCarrying then s
  else
    let need := s.need b
    let held := min need (s.reservation b)
    offerHeadroom ((s.setReservation b held).setWaiting (lowerEntries b need held s.budget.waiting))

/-- Report a change of S: to the module shares, then to the Import Budget (R101). -/
def reportSetpoint (b : Berth) (s : State) : State :=
  lowerReservation b (recomputeShares b s)

/-- Set a berth's setpoint, and report it if it changes (R101). -/
def setSetpoint (b : Berth) (v : Nat) (s : State) : State :=
  if (s.ramp b).setpoint = v then s
  else reportSetpoint b (s.modRamp b fun r => { r with setpoint := v })

/-- Set a berth's reservation to 0 and offer what that frees (R114). -/
def clearReservation (b : Berth) (s : State) : State :=
  offerHeadroom (s.setReservation b 0)

/-- A berth asks the Import Budget for more reservation (R113); its target is then recomputed. -/
def askBudget (b : Berth) (s : State) : State :=
  let need := s.need b
  let held := s.reservation b
  match s.waitEntry b with
  | none =>
    let given := min (need - held) s.headroom.toNat
    let s := s.setReservation b (held + given)
    retarget b (if given < need - held then s.setWaiting (s.budget.waiting ++ [{ berth := b, wanted := need }]) else s)
  | some _ =>
    retarget b
      (offerHeadroom
        (s.setWaiting (s.budget.waiting.map fun e => if e.berth = b then { e with wanted := need } else e)))

/-- Recompute T and let the reservation follow the need (R102, R114). -/
def retargetAndLower (b : Berth) (s : State) : State :=
  lowerReservation b (retarget b s)

/-- Measured power in kW: divided by 1,000 and rounded half away from zero, signed (R101). -/
def measuredKw (power : BitVec 32) : Int :=
  if 0 ≤ power.toInt then ((power.toInt.natAbs + 500) / 1000 : Nat) else -(((power.toInt.natAbs + 500) / 1000 : Nat) : Int)

/-- The separation condition (R107); the ramp state is no part of it, so a taken frame separates a berth HELD by a link loss
with its setpoint at 0 (log 43). -/
def State.separationReady (s : State) (b : Berth) : Bool :=
  match s.port.last.get b with
  | none => false
  | some v =>
    decide ((s.ramp b).setpoint = 0) && decide (s.port.age.get b ≤ 5) &&
      decide ((measuredKw v.power).natAbs ≤ s.settings.threshold)

/-- Start the separation wait: the setpoint is 0 in RAMPING_OUT and the condition is not met (R107). -/
def startSeparationWait (b : Berth) (s : State) : State :=
  if (s.berth b).stage = .rampingOut ∧ (s.ramp b).setpoint = 0 ∧ !s.separationReady b then
    s.modRamp b fun r => { r with separationWait := some (s.inSeconds 30) }
  else s

/-- A capacity report (R108): the clamp, then the target, the asking and the reservation by stage. -/
def capacityReport (b : Berth) (s : State) : State :=
  let old := (s.ramp b).capacity
  let new := (s.berth b).moduleCount * s.settings.rating
  let before := (s.ramp b).setpoint
  let s := s.modRamp b fun r => { r with capacity := new }
  let s := if new < before then setSetpoint b new s else s
  let s :=
    if (s.berth b).stage = .rampingIn ∧ old < new ∧ s.reservation b < s.need b then askBudget b s
    else if (s.berth b).stage.ramps then retargetAndLower b s
    else s
  if new = 0 ∧ 0 < before then startSeparationWait b s else s

/-- Clear a Ramp Unit at a stage entry (R110): the setpoint falls to 0 and is reported. -/
def clearRamp (b : Berth) (s : State) : State :=
  let before := (s.ramp b).setpoint
  let s := s.modRamp b fun r =>
    { r with setpoint := 0, wanted := 0, target := 0, state := .idle, advance := none, separationWait := none,
             separationDelayed := false }
  if before = 0 then s else reportSetpoint b s

/-- Put a ramp HELD where it stands, as an accepted Hold does (R105). -/
def holdRamp (b : Berth) (s : State) : State :=
  let s := s.modRamp b fun r => { r with wanted := r.setpoint }
  let s := dropWaiting b s
  let s := retarget b s
  let s := s.modRamp b fun r => { r with state := .held, advance := none }
  lowerReservation b s

/-- Ramp out at a rate (R106): W_t becomes 0, HELD becomes IDLE, the waiting place is given up, T is recomputed. -/
def rampOut (b : Berth) (rate : Nat) (s : State) : State :=
  let s := s.modRamp b fun r =>
    { r with wanted := 0, rate := rate, state := if r.state = .held then .idle else r.state }
  retargetAndLower b (dropWaiting b s)

/-- The exceeded field and its notice, at the end of an event (R112; log 15). -/
def settleExceeded (s : State) : State :=
  let above := decide (s.settings.importLimit < s.reserved)
  if above == s.budget.exceeded then s
  else
    let s := { s with budget := { s.budget with exceeded := above } }
    if above then latchShore .importExceeded s else s

/-- One advance's step of S toward T (R103). -/
def Ramp.stepped (r : Ramp) : Nat :=
  let d := r.rate / 10
  if r.setpoint < r.target then min r.target (r.setpoint + d) else max r.target (r.setpoint - d)

/-- In SHORE_CARRYING the setpoint follows the measured load (R111) and the reservation follows it up (R117). -/
def followLoad (b : Berth) (power : BitVec 32) (s : State) : State :=
  let kw := (measuredKw power).toNat
  let v := min kw (min (s.ramp b).capacity (s.agreedKw b))
  let s := (setSetpoint b v s).modRamp b fun r => { r with wanted := v, target := v }
  if s.reservation b < kw then s.setReservation b (min kw 65535) else s

end Sys2Proof.Machine
end

