-- ==== Sys2Proof/Machine/Modules.lean ====
section
/-! DEFINITION. The Module Pool Manager (ch. 03) with the outlet's close command (R124) that ends an allocation. -/

namespace Sys2Proof.Machine

/-- Change the module pool. -/
def State.modPool (s : State) (f : ModulePool → ModulePool) : State :=
  { s with pool := f s.pool }

/-- Command the outlet closed (R124). -/
def commandOutletClosed (b : Berth) (s : State) : State :=
  if (s.sec b).outletCommand = .opened then
    s.modSec b fun c => { c with outletCommand := .closed, supervision := .closing (s.inMs 300) }
  else s

/-- Has T_cycle passed since the module's last charge start? (R57) -/
def State.cyclePassed (s : State) (m : ModuleId) : Bool :=
  decide ((s.module m).lastChargeStart + s.settings.tCycle * 1000 ≤ s.elapsedMs)

/-- Is the module an eligible DARK one? (R57) -/
def State.isEligible (s : State) (m : ModuleId) : Bool :=
  decide ((s.module m).state = .dark) && (s.module m).berth.isNone && s.cyclePassed m

/-- The READY modules, lowest-numbered first (R61). -/
def State.readyModules (s : State) : List ModuleId :=
  allModules.filter fun m => decide ((s.module m).state = .ready)

/-- The eligible DARK modules, lowest-numbered first (R61). -/
def State.eligibleModules (s : State) : List ModuleId :=
  allModules.filter s.isEligible

/-- Make the charge start, if one is due (R49). -/
def tryChargeStart (s : State) : State :=
  match s.pool.chargeList with
  | [] => s
  | m :: rest =>
    if s.pool.plantLastStart + s.settings.tSpace * 100 ≤ s.elapsedMs ∧ s.cyclePassed m then
      let s := s.modPool fun p => { p with chargeList := rest, plantLastStart := s.elapsedMs }
      emit (.charge m)
        (s.modModule m fun x =>
          { x with state := .charging, entryTime := s.elapsedMs, lastChargeStart := s.elapsedMs,
                   timer := some (s.inSeconds 20), cycleOpen := true })
    else s

/-- A module enters RUNNING for a berth (R53). -/
def enterRunning (m : ModuleId) (b : Berth) (s : State) : State :=
  let s := s.modModule m fun x =>
    { x with state := .running, entryTime := s.elapsedMs, berth := some b, timer := none }
  let s := s.modBerth b fun r => { r with moduleCount := r.moduleCount + 1 }
  let s := capacityReport b s
  let modules := s.runningOf b
  let share := shareAt (s.ramp b).setpoint modules.length (modules.idxOf m)
  recomputeShares b (emit (.run m b share) (s.modModule m fun x => { x with share := share }))

/-- A module that was RUNNING for a berth has left it (R53). -/
def leaveRunning (m : ModuleId) (b : Berth) (s : State) : State :=
  let s := s.modModule m fun x => { x with berth := none, share := 0 }
  let s := s.modBerth b fun r => { r with moduleCount := r.moduleCount - 1 }
  recomputeShares b (capacityReport b s)

/-- Does the berth have an allocation queue entry? -/
def State.hasEntry (s : State) (b : Berth) : Bool :=
  s.pool.queue.any fun e => decide (e.berth = b)

/-- Is the berth's allocation complete? (R64) -/
def State.allocationComplete (s : State) (b : Berth) : Bool :=
  decide ((s.berth b).stage = .allocating) && !s.hasEntry b &&
    (allModules.all fun m => !decide ((s.module m).berth = some b) || decide ((s.module m).state = .running)) &&
    decide (1 ≤ (s.berth b).moduleCount)

/-- Report a completed allocation: the stage timer stops and the outlet is commanded closed (R64). A second completion
in one stay finds both done. -/
def checkComplete (b : Berth) (s : State) : State :=
  if s.allocationComplete b then
    commandOutletClosed b (s.modBerth b fun r => { r with stageTimer := none })
  else s

/-- Grant READY modules to a berth: each enters RUNNING at once (R61). -/
def grantReady (b : Berth) (modules : List ModuleId) (s : State) : State :=
  modules.foldl (fun s m => checkComplete b (enterRunning m b s)) s

/-- Grant DARK modules to a berth: each joins the charge-start list (R61). -/
def grantDark (b : Berth) (modules : List ModuleId) (s : State) : State :=
  modules.foldl
    (fun (s : State) m =>
      (s.modModule m fun x => { x with berth := some b }).modPool fun p => { p with chargeList := p.chargeList ++ [m] })
    s

/-- Examine the allocation queue (R61), again after each grant. -/
def examine (fuel : Nat) (s : State) : State :=
  match fuel, s.pool.queue with
  | 0, _ => s
  | _, [] => s
  | fuel + 1, e :: rest =>
    let ready := s.readyModules
    let dark := s.eligibleModules
    if e.wanted ≤ ready.length + dark.length then
      let s := grantReady e.berth (ready.take e.wanted) s
      let s := grantDark e.berth (dark.take (e.wanted - ready.length)) s
      let s := s.modPool fun p => { p with queue := rest }
      examine fuel (checkComplete e.berth s)
    else s

/-- An event of R62: examine the queue, and make a charge start that has become due. -/
def examineQueue (s : State) : State :=
  tryChargeStart (examine s.pool.queue.length s)

/-- A module enters READY, with its idle hold (R52); the pool is re-examined. -/
def enterReady (m : ModuleId) (s : State) : State :=
  examineQueue
    (s.modModule m fun x =>
      { x with state := .ready, entryTime := s.elapsedMs, berth := none, timer := some (s.inSeconds 300) })

/-- A module is sent DISCHARGE and enters DARK (R52, R56); the pool is re-examined. -/
def enterDark (m : ModuleId) (s : State) : State :=
  examineQueue
    (emit (.discharge m)
      (s.modModule m fun x =>
        { x with state := .dark, entryTime := s.elapsedMs, berth := none, fault := none, timer := none }))

/-- A RUNNING module enters DRAINING (R54). -/
def enterDraining (b : Berth) (m : ModuleId) (s : State) : State :=
  let s := s.modModule m fun x =>
    { x with state := .draining, entryTime := s.elapsedMs, timer := some (s.inSeconds 5) }
  leaveRunning m b (emit (.drain m) s)

/-- The stages in which a lost module is replaced (R60). -/
def Stage.replaces (g : Stage) : Bool :=
  match g with
  | .allocating | .energising | .synchronising | .parallel | .rampingIn | .shoreCarrying | .rampingOut => true
  | _ => false

/-- The queue with one replacement module asked for (R60). -/
def askReplacement (b : Berth) (moment : Nat) (queue : List QueueEntry) : List QueueEntry :=
  if queue.any fun e => decide (e.berth = b) then
    queue.map fun e => if e.berth = b then { e with wanted := e.wanted + 1 } else e
  else
    (queue.filter fun e => decide (e.kind = .replacement)) ++
      [{ berth := b, wanted := 1, kind := .replacement, entered := moment }] ++
      (queue.filter fun e => decide (e.kind = .new))

/-- A berth loses a module it was granted (R60): the queue changes and is examined, and then the loss is reported and
noticed, in the order of the rule's text (log 32), whatever the stage (log 33). -/
def moduleLost (b : Berth) (s : State) : State :=
  latchShip b .moduleLost
    (if (s.berth b).stage.replaces then
      examineQueue (s.modPool fun p => { p with queue := askReplacement b s.elapsedMs p.queue })
    else s)

/-- A module enters FAULTED (R51, R55): it leaves the charge-start list, or RUNNING, its berth loses it, and the notice of
R68 is latched. -/
def enterFaulted (m : ModuleId) (cause : FaultCause) (s : State) : State :=
  let x := s.module m
  let s := s.modModule m fun x =>
    { x with state := .faulted, entryTime := s.elapsedMs, fault := some cause, timer := none }
  let s := s.modPool fun p => { p with chargeList := p.chargeList.filter fun k => decide (k ≠ m) }
  let s :=
    match x.berth with
    | none => s
    | some b =>
      if x.state = .running then moduleLost b (leaveRunning m b s)
      else moduleLost b (s.modModule m fun x => { x with berth := none })
  tryChargeStart (latchShore .moduleFault s)

/-- Add a NEW entry at the tail of the queue (R59). -/
def addNewEntry (b : Berth) (wanted : Nat) (s : State) : State :=
  examineQueue
    (s.modPool fun p =>
      { p with queue := p.queue ++ [{ berth := b, wanted := wanted, kind := .new, entered := s.elapsedMs }] })

/-- Remove a berth's queue entry, if any, and re-examine the queue (R63, step 1). A charge start already due at this moment
is made with that examination, of a module of this berth too, before step 2 withdraws; without an entry there is no
examination here, and step 2 withdraws first: the model's choice (log 42). -/
def removeEntry (b : Berth) (s : State) : State :=
  if s.hasEntry b then
    examineQueue (s.modPool fun p => { p with queue := p.queue.filter fun e => decide (e.berth ≠ b) })
  else s

/-- Take one module off the charge-start list (R63, step 2); it may have become eligible, so the queue is examined
(R62). -/
def withdrawOne (m : ModuleId) (s : State) : State :=
  let s := s.modPool fun p => { p with chargeList := p.chargeList.filter fun k => decide (k ≠ m) }
  let s := s.modModule m fun x => { x with berth := none }
  examine s.pool.queue.length s

/-- Take a berth's modules off the charge-start list (R63, step 2), from the list's head on, each with its own examination
of the queue; a charge start that has become due is made once all have left (log 42). -/
def withdrawWaiting (b : Berth) (s : State) : State :=
  let mine := s.pool.chargeList.filter fun m => decide ((s.module m).berth = some b)
  if mine.isEmpty then s else tryChargeStart (mine.foldl (fun (s : State) m => withdrawOne m s) s)

/-- Modules CHARGING for a berth keep charging without a grant (R63, step 3). -/
def withdrawCharging (b : Berth) (s : State) : State :=
  allModules.foldl
    (fun (s : State) m =>
      if (s.module m).state = .charging ∧ (s.module m).berth = some b then
        s.modModule m fun x => { x with berth := none }
      else s)
    s

/-- Withdraw what is granted or owed to a berth (R63); `draining` at the entries to RELEASING and TRIPPED. -/
def withdraw (b : Berth) (draining : Bool) (s : State) : State :=
  let s := withdrawCharging b (withdrawWaiting b (removeEntry b s))
  if draining then (s.runningOf b).foldl (fun s m => enterDraining b m s) s else s

end Sys2Proof.Machine
end

