-- ==== Sys2Proof/Machine/References.lean ====
section
/-! DEFINITION. The Reference Generators and the capture records (ch. 04), short of what a crossing does to a stage. -/

namespace Sys2Proof.Machine

/-- The agreed frequency of a berth; 50 Hz where no agreement is held (R72). -/
def State.agreedFreq (s : State) (b : Berth) : Freq :=
  ((s.berth b).agreement.map Agreement.frequency).getD .hz50

/-- The clamp range of the commanded frequency: nominal ±2 % (R75). -/
def Freq.range (f : Freq) : Nat × Nat :=
  match f with
  | .hz50 => (49000, 51000)
  | .hz60 => (58800, 61200)

/-- The frequency word of a commanded frequency in mHz (R75): f × 2^32 / 10^10, rounded half up. -/
def frequencyWord (mHz : Nat) : BitVec 32 :=
  BitVec.ofNat 32 ((mHz * 2 ^ 32 + 5000000000) / 10000000000)

/-- Give a Reference Generator a frequency: clamp it, note whether it was clamped, set the word (R75). -/
def Reference.command (f : Freq) (mHz : Nat) (r : Reference) : Reference :=
  let v := clampTo f.range.1 f.range.2 mHz
  { r with commanded := some v, clamped := decide (v ≠ mHz), word := frequencyWord v }

/-- Set a Reference Generator to stopped (R76). -/
def Reference.stop (r : Reference) : Reference :=
  { r with mode := .stopped, accumulator := 0#32, word := 0#32, commanded := none, clamped := false, owed := 0 }

/-- The rule of a running mode at its entry (R77, R78, R79). -/
def Reference.enter (f : Freq) (targetSlip : Nat) (mode : RefMode) (r : Reference) : Reference :=
  match mode with
  | .stopped => r.stop
  | .free | .form => ({ r with mode := mode } : Reference).command f f.mHz
  | .trim => ({ r with mode := mode } : Reference).command f (f.mHz + targetSlip)
  | .follow => { r with mode := mode }

/-- Send a REFERENCE message: the berth, the mode and the word (R74). -/
def sendReference (b : Berth) (s : State) : State :=
  emit (.reference b (s.reference b).mode (s.reference b).word) s

/-- Set a berth's reference mode (R76). From STOPPED the accumulator starts at 0, the word is nominal and the start is a
reference crossing. -/
def setMode (b : Berth) (mode : RefMode) (s : State) : State :=
  let old := (s.reference b).mode
  let f := s.agreedFreq b
  let slip := (s.setting b).targetSlip
  if old = mode then s
  else if mode = .stopped then s.modReference b Reference.stop
  else if old = .stopped then
    sendReference b
      (s.modReference b fun r =>
        (({ r with accumulator := 0#32, owed := 0 } : Reference).command f f.mHz).enter f slip mode)
  else s.modReference b (Reference.enter f slip mode)

/-- The mode of a role in the parallel stages (R14). -/
def Role.mode (r : Role) : RefMode :=
  match r with
  | .shipForms => .follow
  | .shoreForms => .form

/-- Set a berth's reference by its role. -/
def setModeByRole (b : Berth) (s : State) : State :=
  match (s.berth b).agreement with
  | some a => setMode b a.role.mode s
  | none => setMode b .form s

/-- The reference's phase in tenths of a degree (R79). -/
def phaseOf (accumulator : BitVec 32) : Nat :=
  (accumulator.toNat * 3600 + 2 ^ 31) / 2 ^ 32 % 3600

/-- The phase error in tenths of a degree, positive when the shore output lags (R79). -/
def phaseError (phase : Nat) : Int :=
  if phase = 0 then 0 else if phase ≤ 1800 then -(phase : Int) else 3600 - (phase : Int)

/-- One tenth of a degree in accumulator counts (R79). -/
def phaseStep : Nat := 2 ^ 32 / 3600

/-- The phase correction of FOLLOW (R79). A carry of the addition is a reference crossing, sent at that moment. -/
def correctPhase (b : Berth) (s : State) : State :=
  let a := (s.reference b).accumulator
  let e := phaseError (phaseOf a)
  if 0 < e then
    let s' := s.modReference b fun r => { r with accumulator := a + BitVec.ofNat 32 phaseStep }
    if 2 ^ 32 ≤ a.toNat + phaseStep then sendReference b s' else s'
  else if e < 0 then
    s.modReference b fun r => { r with accumulator := BitVec.ofNat 32 (a.toNat - phaseStep) }
  else s

/-- A ZS crossing at the berth's Reference Generator (R78, R79); `frequency` is present when the period is valid. -/
def shipCrossingAtReference (b : Berth) (frequency : Option Nat) (s : State) : State :=
  match frequency, (s.reference b).mode with
  | some f, .trim => s.modReference b (Reference.command (s.agreedFreq b) (f + (s.setting b).targetSlip))
  | some f, .follow => correctPhase b (s.modReference b (Reference.command (s.agreedFreq b) f))
  | _, _ => s

/-- The dead time of a berth's inputs, in ticks (R72). -/
def Freq.deadTime (f : Freq) : Nat :=
  match f with
  | .hz50 => 400000
  | .hz60 => 333334

/-- Is a period valid? (R71) -/
def periodValid (p : BitVec 32) : Bool :=
  140000 ≤ p.toNat && p.toNat ≤ 240000

/-- The frequency of a valid period, in mHz, rounded half up (R71). -/
def periodFrequency (p : BitVec 32) : Option Nat :=
  if periodValid p then some ((2 * 10000000000 + p.toNat) / (2 * p.toNat)) else none

/-- Does an edge fall inside the hold-off of 1 ms after the latest crossing? (R70) -/
def CaptureRecord.heldOff (r : CaptureRecord) (stamp : TimeStamp) : Bool :=
  match r.latest with
  | none => false
  | some l => (stamp - l).toNat < 10000

/-- Capture an edge: the record as updated (R70, R71). -/
def CaptureRecord.capture (stamp : TimeStamp) (deadAt : Nat) (r : CaptureRecord) : CaptureRecord :=
  let period := r.latest.map fun l => stamp - l
  { latest := some stamp, previous := r.latest, period := period, valid := (period.map periodValid).getD false,
    frequency := period.bind periodFrequency, live := true, deadTimer := some deadAt }

/-- The stages in which a dead ship bus is noticed (R80). -/
def Stage.noticesDeadBus (g : Stage) : Bool :=
  match g with
  | .parallel | .rampingIn | .shoreCarrying | .rampingOut | .separating => true
  | _ => false

/-- Declare an input DEAD (R72), telling its consumers (R73): a ZS input clears a running Synchroniser's count (R92) and
is noticed while the buses are joined (R80). -/
def declareDead (side : BusSide) (b : Berth) (s : State) : State :=
  let s := s.modInput side b fun _ => CaptureRecord.reset
  match side with
  | .outlet => s
  | .ship =>
    let s := if (s.sync b).running then s.modSync b fun y => { y with count := 0 } else s
    if (s.berth b).stage.noticesDeadBus then latchShip b .shipBusDead (latchShore (.shipBusDead b) s) else s

/-- The moment of a latest crossing, the last moment of its time base value before its dead timer's expiry. -/
def crossedAt (latest : TimeStamp) (expiry : Nat) : Nat :=
  expiry - (BitVec.ofNat 32 expiry - latest).toNat

/-- Follow a change of the dead time at one input: a running dead timer's expiry is recomputed from the latest crossing
(R72). -/
def moveDeadTimer (deadTime : Nat) (side : BusSide) (b : Berth) (s : State) : State :=
  match (s.input side b).latest, (s.input side b).deadTimer with
  | some l, some e =>
    let expiry := crossedAt l e + deadTime
    if expiry ≤ s.now then declareDead side b s
    else s.modInput side b fun r => { r with deadTimer := some expiry }
  | _, _ => s

/-- Take or remove a berth's agreement; the dead time of its inputs follows (R72). -/
def setAgreement (b : Berth) (a : Option Agreement) (s : State) : State :=
  let old := (s.agreedFreq b).deadTime
  let s := s.modBerth b fun r => { r with agreement := a }
  let new := (s.agreedFreq b).deadTime
  if old = new then s else moveDeadTimer new .outlet b (moveDeadTimer new .ship b s)

end Sys2Proof.Machine
end

