-- ==== Sys2Proof/Machine/Stages.lean ====
section
/-! DEFINITION. The stage entries of a berth (ch. 01), with the outlet, coupler and earth-path operations of the Protection
Unit (ch. 07) that they call, and trip causes (R21, R127). -/

namespace Sys2Proof.Machine

/-- Enter a stage: the stage field and the stage notice flags (R4; log 11). -/
def setStage (b : Berth) (g : Stage) (s : State) : State :=
  latchShip b .stage (latchShore (.stage b) (s.modBerth b fun r => { r with stage := g }))

/-- Command the outlet open (R125). -/
def commandOutletOpen (b : Berth) (s : State) : State :=
  match (s.sec b).outletCommand with
  | .opened => s
  | .closed =>
    s.modSec b fun c =>
      { c with outletCommand := .opened,
               supervision := if c.outletAux = .opened then .idle else .opening (s.inMs 200) }

/-- Begin a coupler open pulse; a pulse already driven keeps its timer (R126). -/
def beginOpenPulse (b : Berth) (s : State) : State :=
  s.modSec b fun c => { c with couplerOpen := some (c.couplerOpen.getD (s.inMs 200)) }

/-- The two fields of the neighbours that an earth-path check holds (R98, R109). -/
def setCheckRunning (b : Berth) (x : Bool) (s : State) : State :=
  (s.modSync b fun y => { y with earthCheck := x }).modRamp b fun r => { r with suspended := x }

/-- Cancel the earth-path schedule (R132). -/
def cancelSchedule (b : Berth) (s : State) : State :=
  setCheckRunning b false
    (s.modSec b fun c => { c with schedule := .inactive, checkRequest := false, deferrals := 0 })

/-- Stop the link-loss grace timer (R134). -/
def stopGrace (b : Berth) (s : State) : State :=
  s.modSec b fun c => { c with graceTimer := none }

/-- Clear the overload supervision (R119). -/
def clearOverload (b : Berth) (s : State) : State :=
  s.modSec b fun c => { c with overCapacity := false, overloadTimer := none }

/-- Stop the Synchroniser (R86). -/
def stopSync (b : Berth) (s : State) : State :=
  s.modSync b fun y =>
    { y with running := false, count := 0, inFlight := false, failures := 0, syncTimer := none, heldTimeout := false,
             supervision := none, closeLine := false }

/-- Start the Synchroniser (R86). -/
def startSync (b : Berth) (s : State) : State :=
  s.modSync b fun y =>
    { y with running := true, count := 0, inFlight := false, failures := 0, heldTimeout := false, last := none,
             syncTimer := some (s.inSeconds (s.setting b).syncTimeout) }

/-- Authority and pending request removed, with no notice (R27). -/
def dropAuthority (b : Berth) (s : State) : State :=
  s.modBerth b fun r => { r with holder := .nobody, pendingSince := none }

/-- The offer page built from the settings in force (R30). -/
def offerOf (b : Berth) (s : State) : Offer :=
  let g := s.setting b
  { berth := b, frequencies := g.frequencies, voltage := g.voltage, kw := g.moduleLimit * s.settings.rating,
    preference := g.preference, maxRate := g.maxRate }

/-- Entry to NEGOTIATING from VACANT: the offer is built and sent (R8, R29, R31). -/
def enterNegotiatingFromVacant (b : Berth) (s : State) : State :=
  let s := setAgreement b none (setStage b .negotiating s)
  let page := offerOf b s
  sendOn (.ship b) (.offer (.ship b) page) (s.modUnit b fun u => { u with phase := .offered, offer := some page })

/-- Entry to NEGOTIATING from AGREED, by a Request Page (R8, R29). -/
def enterNegotiatingFromAgreed (b : Berth) (s : State) : State :=
  (setAgreement b none (setStage b .negotiating s)).modUnit b fun u => { u with phase := .offered }

/-- Leave VACANT for NEGOTIATING if the three conditions of R7 hold. -/
def passOn (b : Berth) (s : State) : State :=
  let r := s.berth b
  if r.stage = .vacant ∧ r.inService = true ∧ r.linkLost = false ∧ (s.sec b).plugPilot = .closed then
    enterNegotiatingFromVacant b s
  else s

/-- The entry actions of VACANT on the berth record (R7). -/
def BerthRecord.vacate (r : BerthRecord) : BerthRecord :=
  { r with holder := .nobody, pendingSince := none, status := none, stageTimer := none, syncHold := false,
           separationCause := none }

/-- Entry to VACANT, other than by a Plant Reset (R7), passing on if the conditions hold. -/
def enterVacant (b : Berth) (s : State) : State :=
  let s := setStage b .vacant s
  let s := setAgreement b none (s.modBerth b BerthRecord.vacate)
  let s := s.modUnit b fun _ => AgreementUnit.reset
  passOn b (emptyCopies b s)

/-- Entry to AGREED (R9). -/
def enterAgreed (b : Berth) (s : State) : State :=
  setStage b .agreed s

/-- RELEASING ends when the module count is 0 and the outlet auxiliary shows open (R20). -/
def releasingCheck (b : Berth) (s : State) : State :=
  let r := s.berth b
  if r.stage = .releasing ∧ r.moduleCount = 0 ∧ (s.sec b).outletAux = .opened then
    if r.linkLost then enterVacant b s else enterAgreed b s
  else s

/-- A close in flight at the entry to RELEASING: open pulse, reservation returned (R19). -/
def releaseClose (b : Berth) (s : State) : State :=
  let inFlight := (s.sync b).inFlight
  let s := stopSync b s
  if inFlight then returnReservation b (beginOpenPulse b s) else s

/-- Entry to RELEASING (R19); the order of its actions is the model's (log 32). -/
def enterReleasing (b : Berth) (s : State) : State :=
  let s := setStage b .releasing s
  let s := s.modBerth b fun r => { r with stageTimer := none, syncHold := false }
  let s := setMode b .stopped s
  let s := cancelSchedule b (stopGrace b s)
  let s := clearReservation b (dropWaiting b (clearRamp b s))
  let s := releaseClose b s
  let s := commandOutletOpen b s
  releasingCheck b (withdraw b true s)

/-- The outlet confirmed open in SEPARATING: the connection ends if it is still open, and the berth enters RELEASING
(R18, R139). -/
def outletOpened (b : Berth) (s : State) : State :=
  let cause := (s.berth b).separationCause.getD .normal
  enterReleasing b (endConnection b (.separated cause) s)

/-- Command the outlet open in SEPARATING; if the auxiliary shows open already, the berth moves on at once (R125). -/
def openOutletSeparating (b : Berth) (s : State) : State :=
  let told := decide ((s.sec b).outletCommand = .closed) && decide ((s.sec b).outletAux = .opened)
  let s := commandOutletOpen b s
  if told then outletOpened b s else s

/-- Entry to SEPARATING (R18); the order of its actions is the model's (log 32). -/
def enterSeparating (b : Berth) (cause : SeparationCause) (s : State) : State :=
  let s := setStage b .separating s
  let s := s.modBerth b fun r => { r with separationCause := some cause }
  let s := clearOverload b (cancelSchedule b (stopGrace b s))
  let s := clearReservation b (dropWaiting b (clearRamp b s))
  let s := withdraw b false s
  let s := setMode b .form s
  match (s.sec b).couplerAux with
  | .closed => beginOpenPulse b s
  | .opened => openOutletSeparating b (endConnection b (.separated cause) s)

/-- Modules wanted by a NEW entry: agreed kW by module rating, rounded up (R10). -/
def modulesWanted (agreedKw rating : Nat) : Nat :=
  (agreedKw + rating - 1) / rating

/-- Entry to ALLOCATING (R10); the stage timer starts before the queue is examined (log 14). -/
def enterAllocating (b : Berth) (s : State) : State :=
  let s := setStage b .allocating s
  let s := s.modBerth b fun r => { r with stageTimer := some (s.inSeconds 600) }
  addNewEntry b (modulesWanted (s.agreedKw b) s.settings.rating) s

/-- Entry to ENERGISING from ALLOCATING (R12, R129). -/
def enterEnergising (b : Berth) (s : State) : State :=
  let s := setStage b .energising s
  let s := s.modBerth b fun r => { r with qualification := none, stageTimer := some (s.inSeconds 30) }
  let s := setMode b .free (stopSync b s)
  s.modSec b fun c => { c with schedule := .waiting (s.inSeconds 60), deferrals := 0 }

/-- Entry to ENERGISING from SYNCHRONISING by sync timeout (R12, R13). -/
def enterEnergisingHeld (b : Berth) (s : State) : State :=
  let s := setStage b .energising s
  let s := s.modBerth b fun r => { r with qualification := none, syncHold := true, stageTimer := none }
  let s := latchShip b .syncTimeout (latchShore (.syncTimeout b) s)
  setMode b .free (stopSync b s)

/-- Entry to SYNCHRONISING (R13). -/
def enterSynchronising (b : Berth) (s : State) : State :=
  let s := setStage b .synchronising s
  let s := s.modBerth b fun r => { r with stageTimer := none, syncHold := false }
  startSync b (setMode b .trim s)

/-- Entry to PARALLEL (R14). -/
def enterParallel (b : Berth) (s : State) : State :=
  let s := setStage b .parallel s
  let s := setModeByRole b (stopSync b s)
  beginConnection b (clearRamp b s)

/-- Entry to RAMPING_IN, by the first Ramp Step (R104). -/
def enterRampingIn (b : Berth) (s : State) : State :=
  setStage b .rampingIn s

/-- Entry to SHORE_CARRYING (R15, R110). -/
def enterShoreCarrying (b : Berth) (s : State) : State :=
  let s := setStage b .shoreCarrying s
  let s := setMode b .form s
  let s := s.modRamp b fun r =>
    { r with wanted := r.setpoint, target := r.setpoint, state := .idle, advance := none }
  clearOverload b (stopGrace b (dropWaiting b s))

/-- Test for separation (R107). -/
def separationTest (b : Berth) (s : State) : State :=
  if (s.berth b).stage = .rampingOut ∧ s.separationReady b = true then enterSeparating b .normal s else s

/-- Test for separation where S has become 0 or RAMPING_OUT is entered with S at 0: the wait starts if the condition is
not met (R107). -/
def separationTestOrWait (b : Berth) (s : State) : State :=
  if (s.berth b).stage = .rampingOut ∧ (s.ramp b).setpoint = 0 then
    separationTest b (startSeparationWait b s)
  else s

/-- Entry to RAMPING_OUT at a rate (R16, R106). From SHORE_CARRYING the reference returns to the mode of its role. -/
def enterRampingOut (b : Berth) (rate : Nat) (s : State) : State :=
  let fromShore := decide ((s.berth b).stage = .shoreCarrying)
  let s := clearOverload b (setStage b .rampingOut s)
  let s := if fromShore then setModeByRole b s else s
  separationTestOrWait b (rampOut b rate s)

/-- An exchange abandoned by a trip from NEGOTIATING keeps its offer and latest resolution (R29). -/
def AgreementUnit.abandon (u : AgreementUnit) : AgreementUnit :=
  { AgreementUnit.reset with offer := u.offer, resolution := u.resolution }

/-- Entry to TRIPPED with its first cause (R21, R127); the order of its actions is the model's (log 32). -/
def enterTripped (b : Berth) (cause : TripCause) (s : State) : State :=
  let from_ := (s.berth b).stage
  let pulse := decide ((s.sec b).couplerAux = .closed) || (s.sync b).closeLine
  let s := setStage b .tripped s
  let s := s.modBerth b fun r => { r with causes := r.causes ++ [cause], stageTimer := none, syncHold := false }
  let s := latchShip b .trip (latchShore (.trip b) s)
  let s := if from_ = .negotiating then s.modUnit b AgreementUnit.abandon else s
  let s := commandOutletOpen b s
  let s := if pulse then beginOpenPulse b s else s
  let s := clearOverload b (stopGrace b (cancelSchedule b (stopSync b s)))
  let s := clearReservation b (dropWaiting b (clearRamp b s))
  let s := setMode b .stopped (withdraw b true s)
  let s := dropAuthority b s
  if (s.meter b).connected then endConnection b (.trip ((s.berth b).causes.head?.getD cause)) s
  else if (s.berth b).summaryReserved then returnReservation b s
  else s

/-- Raise a trip cause into a berth (R21, R127). -/
def raiseCause (b : Berth) (cause : TripCause) (s : State) : State :=
  if (s.berth b).stage = .tripped then
    if cause ∈ (s.berth b).causes then s
    else latchShore (.trip b) (s.modBerth b fun r => { r with causes := r.causes ++ [cause] })
  else enterTripped b cause s

/-- The readiness condition of ENERGISING: the voltage has been in range for 1 s up to the latest taken frame, and the
ship bus is live (R12). -/
def State.isReady (s : State) (b : Berth) : Bool :=
  match (s.berth b).qualification with
  | none => false
  | some since => decide (since + ticksPerSecond ≤ s.port.frameTime) && (s.input .ship b).live

/-- Readiness with the hold clear moves the berth to SYNCHRONISING (R12). -/
def readinessCheck (b : Berth) (s : State) : State :=
  if (s.berth b).stage = .energising ∧ (s.berth b).syncHold = false ∧ s.isReady b = true then enterSynchronising b s
  else s

end Sys2Proof.Machine
end

