-- ==== Sys2Proof/Machine/Synchronising.lean ====
section
/-! DEFINITION. The Synchroniser (ch. 05): the computation at each outlet crossing, the close pulse, close failures, the
sync timeout. -/

namespace Sys2Proof.Machine

/-- An angle brought back into −1800 to +1799 by whole turns of 3600 (R89). -/
def wrapAngle (v : Int) : Int :=
  (v + 1800) % 3600 - 1800

/-- The phase angle θ of a delay in a period (R88). -/
def phaseAngle (delay period : Nat) : Int :=
  wrapAngle (((3600 * delay + period / 2) / period : Nat) : Int)

/-- The advance angle A of a slip in mHz over a closing time in ms, rounded half away from zero (R89). -/
def advanceAngle (slip : Int) (closingMs : Nat) : Int :=
  let n := (slip.natAbs * closingMs * 36 + 5000) / 10000
  if slip < 0 then -(n : Int) else (n : Int)

/-- The ship crossing at or before an outlet crossing: the latest, or the previous one if the latest lies after it
(R88). -/
def CaptureRecord.crossingBefore (z : CaptureRecord) (tOut : TimeStamp) : Option TimeStamp :=
  match z.latest with
  | none => none
  | some l => if (tOut - l).toNat < 2 ^ 31 then some l else z.previous

/-- A computation that has ended before its last stage, with nothing reached beyond the outlet crossing. -/
def Computation.ended (tOut : TimeStamp) (verdict : Verdict) : Computation :=
  { tOut := tOut, delta := none, theta := none, slip := none, advanceAngle := none, predicted := none,
    outletVolts := none, shipVolts := none, voltDifference := none, outletFreq := none, shipFreq := none,
    verdict := verdict, count := 0 }

/-- The magnitude of the difference of two voltages. -/
def voltageDifference (u v : BitVec 16) : Nat :=
  (u.toNat - v.toNat) + (v.toNat - u.toNat)

/-- The tests of R91, in order. -/
def judgeCrossing (inFlight earthCheck : Bool) (g : BerthSettings) (volt : Volt) (freq : Freq) (slip predicted : Int)
    (difference shipFreq : Nat) : Verdict :=
  if inFlight then .closeInFlight
  else if slip < g.slipMin then .slipLow
  else if (g.slipMax : Int) < slip then .slipHigh
  else if g.window < predicted.natAbs then .angle
  else if g.voltTolerance * volt.volts < difference * 100 then .voltage
  else if shipFreq < freq.range.1 ∨ freq.range.2 < shipFreq then .shipFrequency
  else if earthCheck then .earthCheck
  else .qualifying

/-- A berth's agreed voltage; 11,000 V where no agreement is held, which no run does (log 29). -/
def State.agreedVolt (s : State) (b : Berth) : Volt :=
  ((s.berth b).agreement.map Agreement.voltage).getD .v11000

/-- The third and last stages of a computation (R90, R91). -/
def judgeVoltage (b : Berth) (c : Computation) (slip predicted : Int) (shipFreq : Nat) (s : State) : Computation :=
  match s.port.last.get b with
  | none => { c with verdict := .voltageStale }
  | some v =>
    if 5 < s.port.age.get b then { c with verdict := .voltageStale }
    else
      let d := voltageDifference v.outlet v.shipBus
      let y := s.sync b
      { c with outletVolts := some v.outlet.toNat, shipVolts := some v.shipBus.toNat, voltDifference := some d,
               verdict := judgeCrossing y.inFlight y.earthCheck (s.setting b) (s.agreedVolt b) (s.agreedFreq b) slip
                 predicted d shipFreq }

/-- The synchronising computation at an outlet crossing (R87 to R91), its count not yet set. -/
def compute (b : Berth) (tOut : TimeStamp) (s : State) : Computation :=
  let z := s.input .ship b
  match z.period, z.frequency, z.crossingBefore tOut with
  | some period, some fShip, some tShip =>
    if !z.live || !z.valid then Computation.ended tOut .shipNotLive
    else
      let delay := (tOut - tShip).toNat
      let c := { Computation.ended tOut .lateShipCrossing with delta := some delay }
      if period.toNat ≤ delay then c
      else
        let theta := phaseAngle delay period.toNat
        let c := { c with theta := some theta }
        match (s.input .outlet b).frequency with
        | none => { c with verdict := .noOutletPeriod }
        | some fOut =>
          let slip := (fOut : Int) - (fShip : Int)
          let a := advanceAngle slip (s.setting b).closingTime
          let predicted := wrapAngle (theta - a)
          let c := { c with slip := some slip, advanceAngle := some a, predicted := some predicted,
                            outletFreq := some fOut, shipFreq := some fShip }
          judgeVoltage b c slip predicted fShip s
  | _, _, _ => Computation.ended tOut .shipNotLive

/-- Record a computation with the qualifying count after it (R91). -/
def recordComputation (b : Berth) (c : Computation) (count : Nat) (s : State) : State :=
  s.modSync b fun y => { y with count := count, last := some { c with count := count } }

/-- Drive the close pulse (R94). -/
def driveClose (b : Berth) (s : State) : State :=
  s.modSync b fun y =>
    { y with closeLine := true, inFlight := true, count := 0,
             supervision := some (s.inMs ((s.setting b).closingTime + 100)) }

/-- The count has reached K (R93). -/
def attemptClose (b : Berth) (c : Computation) (count : Nat) (s : State) : State :=
  match (s.sec b).couplerAux with
  | .closed => (recordComputation b c count s).modSync b fun y => { y with count := 0 }
  | .opened =>
    match reserveSummary b s with
    | (s, true) => driveClose b (recordComputation b c count s)
    | (s, false) =>
      latchTariff .poolLow
        (latchShore .poolLow (recordComputation b { c with verdict := .poolLow } 0 s))

/-- An outlet crossing at the Synchroniser (R87). -/
def outletCrossing (b : Berth) (tOut : TimeStamp) (s : State) : State :=
  if !(s.sync b).running then s
  else
    let c := compute b tOut s
    if c.verdict = .qualifying then
      let n := (s.sync b).count + 1
      if (s.setting b).qualifyCount ≤ n then attemptClose b c n s else recordComputation b c n s
    else recordComputation b c 0 s

/-- The close supervision expires with a close in flight (R96), and a held timeout is settled (R97). -/
def closeFailed (b : Berth) (s : State) : State :=
  let held := (s.sync b).heldTimeout
  let s := s.modSync b fun y => { y with closeLine := false, supervision := none }
  let s := returnReservation b (beginOpenPulse b s)
  let s := s.modSync b fun y => { y with inFlight := false, failures := y.failures + 1 }
  if (s.sync b).failures < 3 then
    let s := latchShip b .closeFailed (latchShore (.closeFailed b) s)
    if held then enterEnergisingHeld b s else s
  else raiseCause b .couplerCloseFail s

/-- The sync timer expires (R97): held while a close is in flight. -/
def syncTimerExpired (b : Berth) (s : State) : State :=
  let s := s.modSync b fun y => { y with syncTimer := none }
  if (s.sync b).inFlight then s.modSync b fun y => { y with heldTimeout := true }
  else enterEnergisingHeld b s

end Sys2Proof.Machine
end

