-- ==== Sys2Proof/Machine/Measurement.lean ====
section
/-! DEFINITION. Crossings and their consumers, the sample port and the delivery of its periods (ch. 04, R12, R111, R117,
R119). -/

namespace Sys2Proof.Machine

/-- The moment of a time base value that is not ahead of the time base. -/
def State.momentOf (s : State) (stamp : TimeStamp) : Nat :=
  s.now - (s.timeBase - stamp).toNat

/-- Carry the time forward to a time base value that lies ahead, past the expiries of other timers if need be; one that
lies behind is taken late (log 24). -/
def advanceToStamp (stamp : TimeStamp) (s : State) : State :=
  let ahead := (stamp - s.timeBase).toNat
  if ahead < 2 ^ 31 then advance ahead s else s

/-- A dead timer that has expired before a moment: the input is declared DEAD, so that no period spans the declaration
(R72). One that expires at the moment itself is not taken yet. -/
def deadBefore (side : BusSide) (b : Berth) (moment : Nat) (s : State) : State :=
  match (s.input side b).deadTimer with
  | none => s
  | some e => if e < moment then declareDead side b s else s

/-- A rising edge at a capture input (R70), with what its consumers do (R73). -/
def takeEdge (side : BusSide) (b : Berth) (stamp : TimeStamp) (s : State) : State :=
  let s := deadBefore side b (s.momentOf stamp) s
  let old := s.input side b
  if old.heldOff stamp then s
  else
    let new := old.capture stamp (s.momentOf stamp + (s.agreedFreq b).deadTime)
    let s := s.modInput side b fun _ => new
    match side with
    | .outlet => outletCrossing b stamp s
    | .ship =>
      let s := shipCrossingAtReference b new.frequency s
      if old.live then s else readinessCheck b s

/-- Overload supervision at a taken frame (R119). -/
def overloadFrame (b : Berth) (power : BitVec 32) (s : State) : State :=
  if (s.berth b).stage ≠ .shoreCarrying then s
  else
    let capacity : Int := (s.ramp b).capacity
    let p := power.toInt
    let s :=
      if capacity * 1000 < p then
        if (s.sec b).overCapacity then s
        else
          latchShip b .overloadWarn
            (latchShore (.overloadWarn b) (s.modSec b fun c => { c with overCapacity := true }))
      else s.modSec b fun c => { c with overCapacity := false }
    if capacity * 110000 < p * 100 then
      s.modSec b fun c => { c with overloadTimer := some (c.overloadTimer.getD (s.inSeconds 10)) }
    else s.modSec b fun c => { c with overloadTimer := none }

/-- Is a voltage within dV of the agreed voltage? (R12; log 36) -/
def voltageInRange (tolerance : Nat) (agreed : Volt) (v : BitVec 16) : Bool :=
  decide (((v.toNat - agreed.volts) + (agreed.volts - v.toNat)) * 100 ≤ tolerance * agreed.volts)

/-- The voltage qualification of ENERGISING at a taken frame (R12). -/
def qualifyFrame (b : Berth) (outlet : BitVec 16) (s : State) : State :=
  if (s.berth b).stage ≠ .energising then s
  else
    let inRange := voltageInRange (s.setting b).voltTolerance (s.agreedVolt b) outlet
    readinessCheck b
      (s.modBerth b fun r =>
        { r with qualification := if inRange then some (r.qualification.getD s.port.frameTime) else none })

/-- A taken frame at the Ramp Unit and the Import Budget (R107, R111, R117). -/
def rampFrame (b : Berth) (power : BitVec 32) (s : State) : State :=
  match (s.berth b).stage with
  | .shoreCarrying => followLoad b power s
  | .rampingOut => separationTest b s
  | _ => s

/-- Deliver a taken frame to one berth's blocks (R82): the Meter, the Ramp Unit and the Import Budget, the Protection
Unit, the Berth Controller, in this order (log 39). The Synchroniser reads the last values at its own computations. -/
def deliverFrame (values : PerBerth BusValues) (b : Berth) (s : State) : State :=
  let v := values.get b
  qualifyFrame b v.outlet (overloadFrame b v.power (rampFrame b v.power (meterFrame b v.power s)))

/-- Deliver a missing period to one berth's blocks (R82, R12, R141). -/
def deliverMissing (b : Berth) (s : State) : State :=
  let s := meterMissing b s
  if (s.berth b).stage = .energising then s.modBerth b fun r => { r with qualification := none } else s

/-- Change the sample port receiver. -/
def State.modPort (s : State) (f : SamplePort → SamplePort) : State :=
  { s with port := f s.port }

/-- Is a berth in a stage whose order of service at a frame could be seen? (log 8) -/
def State.isActive (s : State) (b : Berth) : Bool :=
  match (s.berth b).stage with
  | .vacant | .negotiating | .agreed | .tripped => false
  | _ => true

/-- A count that saturates at 65,535. -/
def saturating (n : Nat) : Nat := min 65535 (n + 1)

/-- Three numbers of so many octets, one for each of berths A, B and C. -/
def perBerthOctets (width : Nat) (n : PerBerth Nat) : List Byte :=
  octets width n.a ++ octets width n.b ++ octets width n.c

/-- The octets of a bus frame before its check, in the order of R81's table (log 40). -/
def busFrameBody (echo : BitVec 8) (v : PerBerth BusValues) : List Byte :=
  echo :: (perBerthOctets 2 ⟨v.a.outlet.toNat, v.b.outlet.toNat, v.c.outlet.toNat⟩ ++
    perBerthOctets 2 ⟨v.a.shipBus.toNat, v.b.shipBus.toNat, v.c.shipBus.toNat⟩ ++
    perBerthOctets 4 ⟨v.a.power.toNat, v.b.power.toNat, v.c.power.toNat⟩)

/-- A bus frame: its 25 octets and the same check as the link frames' (R81). -/
def busFrameOctets (echo : BitVec 8) (v : PerBerth BusValues) : List Byte :=
  busFrameBody echo v ++ crcOctets (busFrameBody echo v)

/-- One berth's values in a bus frame: its place is 0 for A, 1 for B, 2 for C. -/
def busValuesAt (place : Nat) (os : List Byte) : BusValues :=
  { outlet := BitVec.ofNat 16 (number ((os.drop (1 + 2 * place)).take 2)),
    shipBus := BitVec.ofNat 16 (number ((os.drop (7 + 2 * place)).take 2)),
    power := BitVec.ofNat 32 (number ((os.drop (13 + 4 * place)).take 4)) }

/-- Does a bus frame have its fixed length of 27 octets and pass its check? (R81, R82) -/
def busFrameGood (os : List Byte) : Bool :=
  decide (os.length = 27) && decide (os.drop 25 = crcOctets (os.take 25))

/-- A bus frame of its length and with a good check (R82). -/
def takeGoodFrame (echo : BitVec 8) (values : PerBerth BusValues) (s : State) : State :=
  if s.port.awaited ≠ some echo then s.modPort fun p => { p with lateFrames := saturating p.lateFrames }
  else if s.port.taken then s.modPort fun p => { p with duplicates := saturating p.duplicates }
  else
    let s := s.modPort fun p =>
      { p with taken := true, last := ⟨some values.a, some values.b, some values.c⟩, age := .same 0, missing := 0,
               frameTime := p.strobeTime }
    serveBerths s.isActive (deliverFrame values) s

/-- A bus frame from the sample port (R82). -/
def takeBusFrame (os : List Byte) (s : State) : State :=
  if busFrameGood os then takeGoodFrame (os.headD 0#8) ⟨busValuesAt 0 os, busValuesAt 1 os, busValuesAt 2 os⟩ s
  else s.modPort fun p => { p with badFrames := saturating p.badFrames }

/-- A missing period at the strobe that closes it (R82, R83). -/
def takeMissing (s : State) : State :=
  let s := s.modPort fun p =>
    { p with age := ⟨saturating p.age.a, saturating p.age.b, saturating p.age.c⟩, missing := saturating p.missing }
  let s := if s.port.missing = 100 then latchShore .samplePortSilent s else s
  serveBerths s.isActive deliverMissing s

/-- A sample strobe (R81). -/
def takeStrobe (s : State) : State :=
  let s := if s.port.awaited.isSome && !s.port.taken then takeMissing s else s
  s.modPort fun p =>
    { p with strobeCount := p.strobeCount + 1#8, awaited := some (p.strobeCount + 1#8), taken := false,
             strobeTime := p.nextStrobe, nextStrobe := p.nextStrobe + 100000 }

end Sys2Proof.Machine
end

