-- ==== Sys2Proof/Machine/Protection.lean ====
section
/-! DEFINITION. The Protection Unit's events (ch. 07): input changes, breaker and coupler supervision, earth-path checks,
Clear Trip's conditions, ship link loss by stage. -/

namespace Sys2Proof.Machine

/-- The five inputs of a section (R121). -/
inductive InputLine where
  | emergencyStop | plugPilot | outletAux | couplerAux | earthResult
  deriving DecidableEq, Repr

/-- Is an input's change flag set? -/
def ChangeFlags.get (f : ChangeFlags) (l : InputLine) : Bool :=
  match l with
  | .emergencyStop => f.emergencyStop
  | .plugPilot => f.plugPilot
  | .outletAux => f.outletAux
  | .couplerAux => f.couplerAux
  | .earthResult => f.earthResult

/-- Set an input's change flag. -/
def ChangeFlags.mark (l : InputLine) (f : ChangeFlags) : ChangeFlags :=
  match l with
  | .emergencyStop => { f with emergencyStop := true }
  | .plugPilot => { f with plugPilot := true }
  | .outletAux => { f with outletAux := true }
  | .couplerAux => { f with couplerAux := true }
  | .earthResult => { f with earthResult := true }

/-- Set an input's change flag; from clear to set it latches INPUT_CHANGE (R122). -/
def noteChange (b : Berth) (l : InputLine) (s : State) : State :=
  if (s.sec b).flags.get l then s
  else latchShore (.inputChange b) (s.modSec b fun c => { c with flags := c.flags.mark l })

/-- The emergency-stop loop changes (R123). -/
def emergencyStopChanged (b : Berth) (level : Contact) (s : State) : State :=
  match level with
  | .opened => raiseCause b .emergencyStop s
  | .closed => s

/-- The plug pilot changes (R123, R7). -/
def plugPilotChanged (b : Berth) (level : Contact) (s : State) : State :=
  match level with
  | .closed => passOn b s
  | .opened =>
    match (s.berth b).stage with
    | .vacant => s
    | .negotiating | .agreed => enterVacant b s
    | _ => raiseCause b .plugPilot s

/-- The outlet has closed under supervision (R124): the berth enters ENERGISING (R10). -/
def outletClosed (b : Berth) (s : State) : State :=
  if (s.berth b).stage = .allocating then enterEnergising b s else s

/-- The outlet has opened under supervision (R125): the berth moves on under R18 or R20. -/
def outletConfirmedOpen (b : Berth) (s : State) : State :=
  match (s.berth b).stage with
  | .separating => outletOpened b s
  | .releasing => releasingCheck b s
  | _ => s

/-- The outlet auxiliary opens with no supervision while commanded CLOSED (R125): in SEPARATING the connection ends with
its separation cause first (R18, R139; log 18). -/
def outletTripped (b : Berth) (s : State) : State :=
  let s :=
    match (s.berth b).stage with
    | .separating => endConnection b (.separated ((s.berth b).separationCause.getD .normal)) s
    | _ => s
  raiseCause b .outletBreaker s

/-- The outlet auxiliary changes (R124, R125). -/
def outletAuxChanged (b : Berth) (level : Contact) (s : State) : State :=
  let c := s.sec b
  match c.supervision, level with
  | .closing _, .closed => outletClosed b (s.modSec b fun c => { c with supervision := .idle })
  | .closing _, .opened => s
  | .opening _, .opened => outletConfirmedOpen b (s.modSec b fun c => { c with supervision := .idle })
  | .opening _, .closed => s
  | .idle, .opened => if c.outletCommand = .closed then outletTripped b s else releasingCheck b s
  | .idle, .closed => if c.outletCommand = .opened then raiseCause b .outletBreaker s else s

/-- The coupler auxiliary closes (R126). -/
def couplerClosed (b : Berth) (s : State) : State :=
  match (s.berth b).stage with
  | .synchronising => if (s.sync b).closeLine then enterParallel b s else s
  | .tripped | .releasing => beginOpenPulse b s
  | _ => s

/-- The coupler auxiliary opens (R126, R17, R18). -/
def couplerOpened (b : Berth) (s : State) : State :=
  let active := (s.sec b).couplerOpen.isSome
  let s := s.modSec b fun c => { c with couplerOpen := none }
  match (s.berth b).stage with
  | .separating =>
    let s := endConnection b (.separated ((s.berth b).separationCause.getD .normal)) s
    if active then openOutletSeparating b s else s
  | .parallel | .rampingIn | .shoreCarrying | .rampingOut =>
    if active then s else enterSeparating b .couplerOpenedByShip s
  | _ => s

/-- The coupler auxiliary changes. -/
def couplerAuxChanged (b : Berth) (level : Contact) (s : State) : State :=
  match level with
  | .closed => couplerClosed b s
  | .opened => couplerOpened b s

/-- The open pulse's 200 ms pass (R126): in SEPARATING without a confirmation the outlet is opened anyway (R18). -/
def openPulseExpired (b : Berth) (s : State) : State :=
  let s := s.modSec b fun c => { c with couplerOpen := none }
  if (s.berth b).stage = .separating ∧ (s.sec b).couplerAux = .closed then
    openOutletSeparating b (s.modBerth b fun r => { r with separationCause := some .couplerFailedToOpen })
  else s

/-- Begin an earth-path check (R131). -/
def beginCheck (b : Berth) (forced : Bool) (s : State) : State :=
  setCheckRunning b true
    (s.modSec b fun c => { c with schedule := .running (s.inSeconds 2) forced, checkRequest := true })

/-- The due time of a WAITING schedule is reached (R130). -/
def checkDue (b : Berth) (s : State) : State :=
  if 4 ≤ (s.sec b).deferrals then beginCheck b true s
  else if (s.berth b).stage = .synchronising ∨ (s.ramp b).state = .moving then
    s.modSec b fun c => { c with deferrals := c.deferrals + 1, schedule := .waiting (s.inSeconds 15) }
  else beginCheck b false s

/-- The end time of a check is reached (R131). -/
def checkEnded (b : Berth) (s : State) : State :=
  let result := (s.sec b).earthResult
  let s := setCheckRunning b false (s.modSec b fun c => { c with checkRequest := false, lastCheck := some result })
  match result with
  | .healthy => s.modSec b fun c => { c with deferrals := 0, schedule := .waiting (s.inSeconds 60) }
  | .failed => raiseCause b .earthPath s

/-- The breaker condition of R128. -/
def Section.breakerCondition (c : Section) : Bool :=
  decide (c.outletAux = .closed) || decide (c.couplerAux = .closed) ||
    match c.supervision with
    | .opening _ => true
    | _ => false

/-- Does a cause's Clear Trip condition hold? (R128) -/
def Section.holdsCause (c : Section) (cause : TripCause) : Bool :=
  c.breakerCondition ||
    match cause with
    | .emergencyStop => decide (c.emergencyStop = .opened)
    | .plugPilot => decide (c.plugPilot = .opened)
    | _ => false

/-- Does the condition of any cause in the set hold? (R128) -/
def State.causePresent (s : State) (b : Berth) : Bool :=
  (s.berth b).causes.any (s.sec b).holdsCause

/-- The first reading of a berth's inputs (R121), the loop before the outlet auxiliary (log 19). -/
def firstReading (b : Berth) (s : State) : State :=
  let c := s.sec b
  let s := if c.emergencyStop = .opened then raiseCause b .emergencyStop s else s
  if c.outletAux = .closed ∧ (s.sec b).outletCommand = .opened then raiseCause b .outletBreaker s else s

/-- Ship link loss at a berth (R27, R133, R134, R172). -/
def shipLinkLost (b : Berth) (s : State) : State :=
  let s := s.modBerth b fun r =>
    { r with linkLost := true, pendingSince := none, holder := if r.holder = .ship then .nobody else r.holder }
  let s := if (s.berth b).stage = .vacant then s else latchShore (.shipLinkLost b) s
  match (s.berth b).stage with
  | .negotiating | .agreed => enterVacant b s
  | .allocating | .energising | .synchronising => enterReleasing b s
  | .parallel | .rampingIn | .rampingOut =>
    (holdRamp b s).modSec b fun c => { c with graceTimer := some (s.inSeconds 10) }
  | _ => s

/-- Give up the shore's authority on a berth, as by a Release Authority (R24, R27). -/
def releaseShore (b : Berth) (s : State) : State :=
  let r := s.berth b
  if r.holder ≠ .shore then s
  else if r.pendingSince.isSome then
    latchShip b .authorityGranted (s.modBerth b fun r => { r with holder := .ship, pendingSince := none })
  else s.modBerth b fun r => { r with holder := .nobody }

end Sys2Proof.Machine
end

