-- ==== Sys2Proof/Machine/Events.lean ====
section
/-! DEFINITION. What surrounds every command: the outbox, the RESET line, the arrival of a valid frame (R168, R172), the
screening of requests (R5, R168 to R170), replies. -/

namespace Sys2Proof.Machine

/-- An event: disregarded while the RESET line is held (R177); otherwise it acts, with what it sends and the exceeded
field as it leaves it (logs 6, 15). -/
def event (f : State → State) (s : State) : State :=
  if s.resetHeld then { s with sent := [] } else settleExceeded (f { s with sent := [] })

/-- The length of a link's silence timer, in seconds (R172). -/
def silenceSeconds (l : Link) : Nat :=
  match l with
  | .shore => 5
  | .ship _ => 2
  | .tariff => 30

/-- A ship link comes up: the link-lost flag is cleared, a grace period ends (R134), and VACANT may be left (R7). -/
def shipLinkUp (b : Berth) (s : State) : State :=
  passOn b (stopGrace b (s.modBerth b fun r => { r with linkLost := false }))

/-- What a link's declaration as up does to its berth (R172). -/
def linkUpEffect (l : Link) (s : State) : State :=
  match l with
  | .ship b => shipLinkUp b s
  | _ => s

/-- A valid frame restarts the silence timer; on a DOWN link it declares the link up, and a notice frame follows if an
enabled flag is set (R168, R171, R172; log 10). -/
def frameArrived (l : Link) (s : State) : State :=
  let wasUp := (s.links.get l).up
  let s := s.modLink l fun k => { k with silence := some (s.inSeconds (silenceSeconds l)), up := true, rx := [] }
  if wasUp then s else noticeIfEnabled l (linkUpEffect l s)

/-- A valid frame, and what it is taken as. -/
def validFrame (l : Link) (f : State → State) (s : State) : State :=
  event (fun s => f (frameArrived l s)) s

/-- Answer a request. -/
def reply (l : Link) (code : Byte) (status : Status) (items : List Byte) (s : State) : State :=
  sendOn l (.reply l code status none items) s

/-- Refuse a request: the reply carries nothing but its two status octets (R168). -/
def refuse (l : Link) (code : Byte) (reason : Reason) (s : State) : State :=
  sendOn l (.reply l code .refused (some reason) []) s

/-- DONE, or CLAMPED where a field was clamped (R5, R169). -/
def doneOr (clamped : Bool) : Status := if clamped then .clamped else .done

/-- Screen a request by its link and length (R168, R169, R170). -/
def withPlain (l : Link) (code : Byte) (payload : List Byte) (f : State → State) (s : State) : State :=
  match payloadLength code.toNat l with
  | none => refuse l code .notPermitted s
  | some n => if payload.length = n then f s else refuse l code .badValue s

/-- Screen a request addressed to a berth by its link, length and berth octet (R168, R169, R170), and give the berth and
the octets after any berth octet. -/
def withBerth (l : Link) (code : Byte) (payload : List Byte) (f : Berth → List Byte → State → State) (s : State) :
    State :=
  withPlain l code payload
    (fun s =>
      match l with
      | .ship b => f b payload s
      | _ =>
        match berthOf (payload.headD 0#8) with
        | none => refuse l code .badValue s
        | some b => f b payload.tail s)
    s

/-- Who sends on a link (ch. 01 "Command authority"). -/
def requester (l : Link) : Holder :=
  match l with
  | .ship _ => .ship
  | _ => .shore

/-- Screen a request by the berth's service, stage and authority (R5, steps 2 to 4). -/
def screened (l : Link) (code : Byte) (b : Berth) (needsService stageOk needsAuthority : Bool) (f : State → State)
    (s : State) : State :=
  let r := s.berth b
  if needsService && !r.inService then refuse l code .notInService s
  else if !stageOk then refuse l code .wrongStage s
  else if needsAuthority && !decide (r.holder = requester l) then refuse l code .noAuthority s
  else f s

/-- A number of two octets at a place of a payload. -/
def word16 (payload : List Byte) (place : Nat) : Nat := number ((payload.drop place).take 2)

/-- A number of four octets at a place of a payload. -/
def word32 (payload : List Byte) (place : Nat) : Nat := number ((payload.drop place).take 4)

/-- The octet at a place of a payload. -/
def octet (payload : List Byte) (place : Nat) : Byte := payload.getD place 0#8

/-- The status octet's value (R170). -/
def statusOctet (x : Status) : Byte :=
  match x with
  | .done => 0#8
  | .pending => 1#8
  | .clamped => 2#8
  | .refused => 3#8
  | .unknown => 4#8

/-- The reason octet's value (R168, R170). -/
def reasonOctet (x : Option Reason) : Byte :=
  match x with
  | none => 0#8
  | some .wrongStage => 1#8
  | some .noAuthority => 2#8
  | some .notInService => 3#8
  | some .badValue => 4#8
  | some .notPermitted => 5#8
  | some .tooMany => 6#8
  | some .causePresent => 7#8
  | some .busy => 8#8

/-- A frame: sync, length, kind, code, payload, check (R167). -/
def frameOctets (kind code : Byte) (payload : List Byte) : List Byte :=
  let body := BitVec.ofNat 8 (payload.length + 2) :: kind :: code :: payload
  0xA5#8 :: (body ++ crcOctets body)

/-- The frames of a reply sent as a run: parts of up to 117 octets, numbered from 0, the last one marked (R170). -/
def runFrames (code status reason : Byte) (part fuel : Nat) (items : List Byte) : List (List Byte) :=
  match fuel with
  | 0 => []
  | fuel + 1 =>
    if items.length ≤ 117 then
      [frameOctets 1#8 code ((status ||| 0x80#8) :: reason :: (BitVec.ofNat 8 part ||| 0x80#8) :: items)]
    else
      frameOctets 1#8 code ((status ||| 0x80#8) :: reason :: BitVec.ofNat 8 part :: items.take 117) ::
        runFrames code status reason (part + 1) fuel (items.drop 117)

/-- The frames of a reply (R168, R170): one, or a run where its payload would exceed 120 octets. -/
def replyFrames (code : Byte) (status : Status) (reason : Option Reason) (items : List Byte) : List (List Byte) :=
  if items.length ≤ 118 then [frameOctets 1#8 code (statusOctet status :: reasonOctet reason :: items)]
  else runFrames code (statusOctet status) (reasonOctet reason) 0 (items.length / 117 + 1) items

/-- The offer page as it is sent (R30, R31, R170). -/
def offerItems (o : Offer) : List Byte :=
  [berthOctet o.berth, offeredOctet o.frequencies, voltOctet o.voltage] ++ num o.kw ++ [prefOctet o.preference] ++
    num o.maxRate

/-- The link frames something sent is made of; a module-bus message has none (R167). -/
def Sent.frames (x : Sent) : List (List Byte) :=
  match x with
  | .reply _ code status reason items => replyFrames code status reason items
  | .notice _ flags => [frameOctets 2#8 0x81#8 (octets 8 flags.toNat)]
  | .offer _ page => [frameOctets 2#8 0x80#8 (offerItems page)]
  | _ => []

end Sys2Proof.Machine
end

