-- ==== Sys2Proof/Machine/Lines.lean ====
section
/-! DEFINITION. The changes of the hard-wired inputs (R121 to R126, R131). A level that does not change is no event; while
the RESET line is held only the level moves (R177, log 5). -/

namespace Sys2Proof.Machine

/-- A change of an input: the level moves; unless the RESET line is held, its change flag is set and INPUT_CHANGE latched
(R122) before its effect follows (log 32). -/
def lineEvent (b : Berth) (l : InputLine) (same : Section → Bool) (move : Section → Section) (f : State → State)
    (s : State) : State :=
  if same (s.sec b) then { s with sent := [] }
  else if s.resetHeld then { s.modSec b move with sent := [] }
  else event (fun s => f (noteChange b l (s.modSec b move))) s

/-- EMERGENCY_STOP_CHANGE (R123). -/
def execEmergencyStopChange (b : Berth) (level : Contact) (s : State) : Host.Outcome State Fault Refusal :=
  .next (lineEvent b .emergencyStop (fun c => decide (c.emergencyStop = level))
    (fun c => { c with emergencyStop := level }) (emergencyStopChanged b level) s)

/-- PLUG_PILOT_CHANGE (R123). -/
def execPlugPilotChange (b : Berth) (level : Contact) (s : State) : Host.Outcome State Fault Refusal :=
  .next (lineEvent b .plugPilot (fun c => decide (c.plugPilot = level)) (fun c => { c with plugPilot := level })
    (plugPilotChanged b level) s)

/-- OUTLET_AUX_CHANGE (R124, R125). -/
def execOutletAuxChange (b : Berth) (level : Contact) (s : State) : Host.Outcome State Fault Refusal :=
  .next (lineEvent b .outletAux (fun c => decide (c.outletAux = level)) (fun c => { c with outletAux := level })
    (outletAuxChanged b level) s)

/-- COUPLER_AUX_CHANGE (R126). -/
def execCouplerAuxChange (b : Berth) (level : Contact) (s : State) : Host.Outcome State Fault Refusal :=
  .next (lineEvent b .couplerAux (fun c => decide (c.couplerAux = level)) (fun c => { c with couplerAux := level })
    (couplerAuxChanged b level) s)

/-- EARTH_RESULT_CHANGE (R131): the change flag and nothing else. -/
def execEarthResultChange (b : Berth) (level : EarthResult) (s : State) : Host.Outcome State Fault Refusal :=
  .next (lineEvent b .earthResult (fun c => decide (c.earthResult = level)) (fun c => { c with earthResult := level })
    (fun s => s) s)

end Sys2Proof.Machine
end

