-- ==== Sys2Proof/Machine/AgreementRequests.lean ====
section
/-! DEFINITION. The agreement exchange (ch. 02): Request Page, Continuation Page, and the expiry of the page wait. -/

namespace Sys2Proof.Machine

/-- Is a frequency among those offered? (R35) -/
def OfferedFreqs.has (o : OfferedFreqs) (f : Freq) : Bool :=
  match o, f with
  | .both, _ | .only50, .hz50 | .only60, .hz60 => true
  | _, _ => false

/-- The role table (R36): the ship's preference, then the shore's; `none` is a fault. -/
def roleOf (ship shore : RolePref) : Option Role :=
  match ship, shore with
  | .formOnly, .formOnly => none
  | .formOnly, _ => some .shipForms
  | .formPreferred, .formOnly => some .shoreForms
  | .formPreferred, _ => some .shipForms
  | .followPreferred, .formOnly | .followPreferred, .formPreferred => some .shoreForms
  | .followPreferred, _ => some .shipForms
  | .followOnly, .followOnly => none
  | .followOnly, _ => some .shoreForms

/-- Resolve a request page against an offer (R35), with the terms of a compatible result. -/
def resolve (o : Offer) (r : PageRequest) : Resolution × Option Terms :=
  if !o.frequencies.has r.frequency then (.badFrequency, none)
  else if r.voltage ≠ o.voltage then (.badVoltage, none)
  else if min r.wantedKw o.kw < r.minimumKw then (.badPower, none)
  else
    match roleOf r.preference o.preference with
    | none => (.badRole, none)
    | some role =>
      (.compatible,
       some { frequency := r.frequency, voltage := r.voltage, agreedKw := min r.wantedKw o.kw,
              minimumKw := r.minimumKw, role := role })

/-- The agreement of resolved terms and pages (R42). -/
def Terms.agreement (t : Terms) (pages : List Page) : Agreement :=
  { frequency := t.frequency, voltage := t.voltage, agreedKw := t.agreedKw, minimumKw := t.minimumKw, role := t.role,
    pages := pages }

/-- The pages end: the agreement is taken and the berth enters AGREED (R41, R42). -/
def takeAgreement (b : Berth) (s : State) : State :=
  let u := s.unit b
  let s := s.modUnit b fun u => { u with phase := .concluded, pageWait := none }
  enterAgreed b (setAgreement b (u.terms.map fun t => t.agreement u.pages) s)

/-- Act on the result of a resolution (R37). -/
def actOnResolution (b : Berth) (more : Bool) (result : Resolution) (terms : Option Terms) (s : State) : State :=
  let s := s.modUnit b fun u => { u with resolution := some result, terms := terms }
  match result with
  | .compatible =>
    if more then
      s.modUnit b fun u => { u with phase := .collecting, pageWait := some (s.inSeconds 10) }
    else takeAgreement b s
  | _ => latchShore (.negotiationIncompatible b) (s.modUnit b fun u => { u with phase := .offered })

/-- Take a request page that passed screening (R34). Without an offer, which no run has here, no frequency is offered
(log 29). -/
def takePage (b : Berth) (r : PageRequest) (s : State) : State :=
  let s := if (s.berth b).stage = .agreed then enterNegotiatingFromAgreed b s else s
  let s := s.modUnit b fun u =>
    { u with request := some r, pages := [], lastMark := none, lastReply := none, pageWait := none }
  match (s.unit b).offer with
  | none => actOnResolution b r.more .badFrequency none s
  | some o => actOnResolution b r.more (resolve o r).1 (resolve o r).2 s

/-- A resolution's octet (R28, its list after "absent"). -/
def resolutionOctet (r : Resolution) : Byte :=
  match r with
  | .compatible => 0#8
  | .badFrequency => 1#8
  | .badVoltage => 2#8
  | .badPower => 3#8
  | .badRole => 4#8

/-- The payload of the reply to a taken Request Page (R34). The agreed kW, the role and whether pages are awaited follow a
COMPATIBLE result without a presence octet, and an incompatible result ends the payload: the model's choice (log 23). -/
def pageReply (u : AgreementUnit) : List Byte :=
  match u.resolution, u.terms with
  | some .compatible, some t =>
    [resolutionOctet .compatible] ++ num t.agreedKw ++ [roleOctet t.role] ++ flag (decide (u.phase = .collecting))
  | some r, _ => [resolutionOctet r]
  | none, _ => []

/-- The fields of a Request Page, as clamped, and whether one was clamped (R33); `none` is a bad enumerated field. -/
def parseRequestPage (p : List Byte) : Option (PageRequest × Bool) :=
  match freqOf (octet p 0), voltOf (octet p 1), prefOf (octet p 6), yesNoOf (octet p 7) with
  | some f, some v, some pref, some more =>
    let wanted := clampTo 100 32000 (word16 p 2)
    let minimum := min wanted (word16 p 4)
    some ({ frequency := f, voltage := v, wantedKw := wanted, minimumKw := minimum, preference := pref,
            more := more },
      decide (wanted ≠ word16 p 2) || decide (minimum ≠ word16 p 4))
  | _, _, _, _ => none

/-- The stages that accept Request Page (R33). -/
def Stage.mayNegotiate (g : Stage) : Bool :=
  match g with
  | .negotiating | .agreed => true
  | _ => false

/-- Request Page (R33, R34). A berth out of service answers NOT_IN_SERVICE before its stage is asked (R5, step 2;
log 13). -/
def takeRequestPage (l : Link) (payload : List Byte) (s : State) : State :=
  withBerth l 0x06#8 payload
    (fun b p s =>
      screened l 0x06#8 b true (s.berth b).stage.mayNegotiate false
        (fun s =>
          match parseRequestPage p with
          | none => refuse l 0x06#8 .badValue s
          | some (r, clamped) =>
            let s := takePage b r s
            reply l 0x06#8 (doneOr clamped) (pageReply (s.unit b)) s) s) s

/-- REQUEST_PAGE. -/
def execRequestPage (l : Link) (payload : List Byte) (s : State) : Host.Outcome State Fault Refusal :=
  .next (validFrame l (takeRequestPage l payload) s)

/-- The fields of a Continuation Page: the page, its mark, its more-pages flag (R38). -/
def parsePage (p : List Byte) : Option (Page × Bool × Bool) :=
  match pageKindOf (octet p 0), yesNoOf (octet p 1), textOf ((p.drop 2).take 9), yesNoOf (octet p 11) with
  | some k, some mark, some text, some more => some ({ kind := k, text := text }, mark, more)
  | _, _, _, _ => none

/-- Is a page acceptable by stage and phase? (R38; log 13) -/
def pageAccepted (stage : Stage) (u : AgreementUnit) (markOctet : Byte) : Bool :=
  match stage with
  | .negotiating => decide (u.phase = .collecting)
  | .agreed => u.lastMark.isSome && decide (yesNoOf markOctet = u.lastMark)
  | _ => false

/-- Answer with a Page Ack echoing a mark (R38). -/
def pageAck (l : Link) (mark : Bool) (s : State) : State :=
  reply l 0x07#8 .done (flag mark) s

/-- A new page in COLLECTING (R40). -/
def newPage (l : Link) (b : Berth) (page : Page) (mark more : Bool) (s : State) : State :=
  if 4 ≤ (s.unit b).pages.length then refuse l 0x07#8 .tooMany s
  else
    let s := s.modUnit b fun u =>
      { u with pages := u.pages ++ [page], lastMark := some mark, lastReply := some { mark := mark } }
    pageAck l mark
      (if more then s.modUnit b fun u => { u with pageWait := some (s.inSeconds 10) } else takeAgreement b s)

/-- A page that passed screening: a repeat, a new page, or a first page with the wrong mark (R39). -/
def markPage (l : Link) (b : Berth) (page : Page) (mark more : Bool) (s : State) : State :=
  match (s.unit b).lastMark with
  | none => if mark then refuse l 0x07#8 .badValue s else newPage l b page mark more s
  | some last =>
    if mark = last then pageAck l (((s.unit b).lastReply.map PageAck.mark).getD mark) s
    else newPage l b page mark more s

/-- Continuation Page (R38 to R40). A berth out of service answers NOT_IN_SERVICE before its stage is asked (R5, step 2;
log 13). -/
def takeContinuationPage (l : Link) (payload : List Byte) (s : State) : State :=
  withBerth l 0x07#8 payload
    (fun b p s =>
      screened l 0x07#8 b true (pageAccepted (s.berth b).stage (s.unit b) (octet p 1)) false
        (fun s =>
          match parsePage p with
          | none => refuse l 0x07#8 .badValue s
          | some (page, mark, more) => markPage l b page mark more s) s) s

/-- CONTINUATION_PAGE. -/
def execContinuationPage (l : Link) (payload : List Byte) (s : State) : Host.Outcome State Fault Refusal :=
  .next (validFrame l (takeContinuationPage l payload) s)

/-- Read Offer (R31). -/
def takeReadOffer (l : Link) (payload : List Byte) (s : State) : State :=
  withBerth l 0x04#8 payload
    (fun b _ s =>
      screened l 0x04#8 b false (decide ((s.berth b).stage ≠ .vacant)) false
        (fun s => reply l 0x04#8 .done (optional 12 offerItems (s.unit b).offer) s) s) s

/-- READ_OFFER. -/
def execReadOffer (l : Link) (payload : List Byte) (s : State) : Host.Outcome State Fault Refusal :=
  .next (validFrame l (takeReadOffer l payload) s)

end Sys2Proof.Machine
end

