-- ==== Sys2Proof/Machine/BerthRequests.lean ====
section
/-! DEFINITION. The requests to a Berth Controller and to a ramp (ch. 01, R104 to R106), one meaning per request. -/

namespace Sys2Proof.Machine

/-- Berth Enable (R6). -/
def takeBerthEnable (l : Link) (payload : List Byte) (s : State) : State :=
  withBerth l 0x01#8 payload
    (fun b _ s => reply l 0x01#8 .done [] (passOn b (s.modBerth b fun r => { r with inService := true }))) s

/-- BERTH_ENABLE. -/
def execBerthEnable (l : Link) (payload : List Byte) (s : State) : Host.Outcome State Fault Refusal :=
  .next (validFrame l (takeBerthEnable l payload) s)

/-- The stages that accept Berth Disable (R5). -/
def Stage.mayDisable (g : Stage) : Bool :=
  match g with
  | .vacant | .negotiating | .agreed | .tripped => true
  | _ => false

/-- The effect of Berth Disable (R6). -/
def disableBerth (b : Berth) (s : State) : State :=
  let s := s.modBerth b fun r => { r with inService := false }
  match (s.berth b).stage with
  | .negotiating | .agreed => enterVacant b s
  | _ => s

/-- Berth Disable (R6). -/
def takeBerthDisable (l : Link) (payload : List Byte) (s : State) : State :=
  withBerth l 0x02#8 payload
    (fun b _ s =>
      screened l 0x02#8 b false (s.berth b).stage.mayDisable false
        (fun s => reply l 0x02#8 .done [] (disableBerth b s)) s) s

/-- BERTH_DISABLE. -/
def execBerthDisable (l : Link) (payload : List Byte) (s : State) : Host.Outcome State Fault Refusal :=
  .next (validFrame l (takeBerthDisable l payload) s)

/-- The effect of an accepted Ship Status (R3). -/
def storeStatus (b : Berth) (load generators : Nat) (s : State) : State :=
  let s := s.modBerth b fun r =>
    { r with status := some { loadKw := load, generators := generators, takenAt := s.now } }
  if (s.berth b).stage = .rampingIn ∧ generators = 0 then enterShoreCarrying b s else s

/-- Ship Status (R3). -/
def takeShipStatus (l : Link) (payload : List Byte) (s : State) : State :=
  withBerth l 0x05#8 payload
    (fun b p s =>
      screened l 0x05#8 b true (decide ((s.berth b).stage ≠ .vacant)) false
        (fun s =>
          if 8 < (octet p 2).toNat then refuse l 0x05#8 .badValue s
          else reply l 0x05#8 .done [] (storeStatus b (word16 p 0) (octet p 2).toNat s)) s) s

/-- SHIP_STATUS. -/
def execShipStatus (l : Link) (payload : List Byte) (s : State) : Host.Outcome State Fault Refusal :=
  .next (validFrame l (takeShipStatus l payload) s)

/-- The stages that accept the authority requests (R5). -/
def Stage.hasAuthority (g : Stage) : Bool :=
  match g with
  | .vacant | .tripped => false
  | _ => true

/-- Request Authority by the party on a link (R23). -/
def requestAuthority (l : Link) (b : Berth) (s : State) : State :=
  let r := s.berth b
  let who := requester l
  if r.holder = .nobody then
    reply l 0x08#8 .done [] (s.modBerth b fun r => { r with holder := who })
  else if r.holder = who then reply l 0x08#8 .done [] s
  else if who = .shore then refuse l 0x08#8 .busy s
  else if r.pendingSince.isSome then reply l 0x08#8 .pending [] s
  else
    reply l 0x08#8 .pending []
      (latchShore (.authorityWanted b) (s.modBerth b fun r => { r with pendingSince := some s.now }))

/-- Request Authority (R23). -/
def takeRequestAuthority (l : Link) (payload : List Byte) (s : State) : State :=
  withBerth l 0x08#8 payload
    (fun b _ s => screened l 0x08#8 b true (s.berth b).stage.hasAuthority false (requestAuthority l b) s) s

/-- REQUEST_AUTHORITY. -/
def execRequestAuthority (l : Link) (payload : List Byte) (s : State) : Host.Outcome State Fault Refusal :=
  .next (validFrame l (takeRequestAuthority l payload) s)

/-- Release Authority by the party on a link (R24). -/
def releaseAuthority (l : Link) (b : Berth) (s : State) : State :=
  let r := s.berth b
  let who := requester l
  if r.holder = who then
    if r.pendingSince.isSome then
      reply l 0x09#8 .done []
        (latchShip b .authorityGranted (s.modBerth b fun r => { r with holder := .ship, pendingSince := none }))
    else reply l 0x09#8 .done [] (s.modBerth b fun r => { r with holder := .nobody })
  else if who = .ship ∧ r.pendingSince.isSome = true then
    reply l 0x09#8 .done [] (s.modBerth b fun r => { r with pendingSince := none })
  else refuse l 0x09#8 .noAuthority s

/-- Release Authority (R24). -/
def takeReleaseAuthority (l : Link) (payload : List Byte) (s : State) : State :=
  withBerth l 0x09#8 payload
    (fun b _ s => screened l 0x09#8 b true (s.berth b).stage.hasAuthority false (releaseAuthority l b) s) s

/-- RELEASE_AUTHORITY. -/
def execReleaseAuthority (l : Link) (payload : List Byte) (s : State) : Host.Outcome State Fault Refusal :=
  .next (validFrame l (takeReleaseAuthority l payload) s)

/-- The effect of Seize Authority (R26). -/
def seizeAuthority (b : Berth) (s : State) : State :=
  let r := s.berth b
  let s := s.modBerth b fun r => { r with holder := .shore, pendingSince := none }
  if r.holder = .ship ∨ r.pendingSince.isSome = true then latchShip b .authoritySeized s else s

/-- Seize Authority (R26). -/
def takeSeizeAuthority (l : Link) (payload : List Byte) (s : State) : State :=
  withBerth l 0x0A#8 payload
    (fun b _ s =>
      screened l 0x0A#8 b true (s.berth b).stage.hasAuthority false
        (fun s => reply l 0x0A#8 .done [] (seizeAuthority b s)) s) s

/-- SEIZE_AUTHORITY. -/
def execSeizeAuthority (l : Link) (payload : List Byte) (s : State) : Host.Outcome State Fault Refusal :=
  .next (validFrame l (takeSeizeAuthority l payload) s)

/-- Does the berth accept Connect? (R5) -/
def BerthRecord.mayConnect (r : BerthRecord) : Bool :=
  decide (r.stage = .agreed) || (decide (r.stage = .energising) && r.syncHold)

/-- The effect of Connect (R10, R12). -/
def connectBerth (b : Berth) (s : State) : State :=
  if (s.berth b).stage = .agreed then enterAllocating b s else enterSynchronising b s

/-- Connect (R10). -/
def takeConnect (l : Link) (payload : List Byte) (s : State) : State :=
  withBerth l 0x0B#8 payload
    (fun b _ s =>
      screened l 0x0B#8 b true (s.berth b).mayConnect true
        (fun s => reply l 0x0B#8 .done [] (connectBerth b s)) s) s

/-- CONNECT. -/
def execConnect (l : Link) (payload : List Byte) (s : State) : Host.Outcome State Fault Refusal :=
  .next (validFrame l (takeConnect l payload) s)

/-- The stages that accept Ramp Step and Hold (R5). -/
def Stage.mayStep (g : Stage) : Bool :=
  match g with
  | .parallel | .rampingIn => true
  | _ => false

/-- A rate as clamped for the link it arrived on (R104). -/
def clampRate (l : Link) (b : Berth) (rate : Nat) (s : State) : Nat :=
  let r := clampTo 50 2000 rate
  match l, (s.unit b).offer with
  | .ship _, some o => min r o.maxRate
  | _, _ => r

/-- Steps 1 to 4 of an accepted Ramp Step (R104): stage, waiting list, fields, state. -/
def stepFields (b : Berth) (wanted rate : Nat) (s : State) : State :=
  let s := if (s.berth b).stage = .parallel then enterRampingIn b s else s
  let s := if wanted < (s.ramp b).wanted then dropWaiting b s else s
  s.modRamp b fun r =>
    { r with wanted := wanted, rate := rate, state := if r.state = .held then .idle else r.state }

/-- An accepted Ramp Step (R104). -/
def rampStep (b : Berth) (wanted rate : Nat) (s : State) : State :=
  let s := stepFields b wanted rate s
  let s := if s.reservation b < s.need b then askBudget b s else s
  retargetAndLower b s

/-- Ramp Step (R104). -/
def takeRampStep (l : Link) (payload : List Byte) (s : State) : State :=
  withBerth l 0x0C#8 payload
    (fun b p s =>
      screened l 0x0C#8 b true (s.berth b).stage.mayStep true
        (fun s =>
          let wanted := word16 p 0
          let rate := clampRate l b (word16 p 2) s
          let s := rampStep b wanted rate s
          let clamped := decide (rate ≠ word16 p 2) || decide ((s.ramp b).target < wanted)
          reply l 0x0C#8 (doneOr clamped) (num (s.ramp b).target ++ num (s.reservation b)) s) s) s

/-- RAMP_STEP. -/
def execRampStep (l : Link) (payload : List Byte) (s : State) : Host.Outcome State Fault Refusal :=
  .next (validFrame l (takeRampStep l payload) s)

/-- Hold (R105). -/
def takeHold (l : Link) (payload : List Byte) (s : State) : State :=
  withBerth l 0x0D#8 payload
    (fun b _ s =>
      screened l 0x0D#8 b true (s.berth b).stage.mayStep true
        (fun s => reply l 0x0D#8 .done [] (holdRamp b s)) s) s

/-- HOLD. -/
def execHold (l : Link) (payload : List Byte) (s : State) : Host.Outcome State Fault Refusal :=
  .next (validFrame l (takeHold l payload) s)

/-- Does the berth accept Depart? (R5) -/
def BerthRecord.mayDepart (r : BerthRecord) : Bool :=
  decide (r.stage = .shoreCarrying) &&
    match r.status with
    | none => false
    | some x => decide (1 ≤ x.generators)

/-- Depart (R16). -/
def takeDepart (l : Link) (payload : List Byte) (s : State) : State :=
  withBerth l 0x0E#8 payload
    (fun b p s =>
      screened l 0x0E#8 b true (s.berth b).mayDepart true
        (fun s =>
          let rate := clampRate l b (word16 p 0) s
          reply l 0x0E#8 (doneOr (decide (rate ≠ word16 p 0))) [] (enterRampingOut b rate s)) s) s

/-- DEPART. -/
def execDepart (l : Link) (payload : List Byte) (s : State) : Host.Outcome State Fault Refusal :=
  .next (validFrame l (takeDepart l payload) s)

/-- The stages that accept Abort (R5). -/
def Stage.mayAbort (g : Stage) : Bool :=
  match g with
  | .allocating | .energising | .synchronising | .parallel | .rampingIn | .rampingOut => true
  | _ => false

/-- The effect of Abort (R10, R12, R13, R16, R106). -/
def abortBerth (b : Berth) (s : State) : State :=
  match (s.berth b).stage with
  | .allocating | .energising | .synchronising => enterReleasing b s
  | .parallel | .rampingIn => enterRampingOut b 2000 s
  | .rampingOut => rampOut b 2000 s
  | _ => s

/-- Abort (R16); refused BUSY while a close is in flight (R13). -/
def takeAbort (l : Link) (payload : List Byte) (s : State) : State :=
  withBerth l 0x0F#8 payload
    (fun b _ s =>
      screened l 0x0F#8 b true (s.berth b).stage.mayAbort true
        (fun s =>
          if (s.berth b).stage = .synchronising ∧ (s.sync b).inFlight = true then refuse l 0x0F#8 .busy s
          else reply l 0x0F#8 .done [] (abortBerth b s)) s) s

/-- ABORT. -/
def execAbort (l : Link) (payload : List Byte) (s : State) : Host.Outcome State Fault Refusal :=
  .next (validFrame l (takeAbort l payload) s)

/-- The stages that accept Force Separate (R5). -/
def Stage.mayForce (g : Stage) : Bool :=
  match g with
  | .parallel | .rampingIn | .rampingOut | .shoreCarrying => true
  | _ => false

/-- Force Separate (R17). -/
def takeForceSeparate (l : Link) (payload : List Byte) (s : State) : State :=
  withBerth l 0x10#8 payload
    (fun b _ s =>
      screened l 0x10#8 b true (s.berth b).stage.mayForce true
        (fun s => reply l 0x10#8 .done [] (enterSeparating b .forced s)) s) s

/-- FORCE_SEPARATE. -/
def execForceSeparate (l : Link) (payload : List Byte) (s : State) : Host.Outcome State Fault Refusal :=
  .next (validFrame l (takeForceSeparate l payload) s)

/-- The effect of an accepted Clear Trip (R22). -/
def clearTrip (b : Berth) (s : State) : State :=
  let s := s.modBerth b fun r => { r with causes := [] }
  let r := s.berth b
  if r.inService && !r.linkLost && r.agreement.isSome then enterAgreed b s else enterVacant b s

/-- Clear Trip (R22). -/
def takeClearTrip (l : Link) (payload : List Byte) (s : State) : State :=
  withBerth l 0x11#8 payload
    (fun b _ s =>
      screened l 0x11#8 b false (decide ((s.berth b).stage = .tripped)) false
        (fun s =>
          if s.causePresent b then refuse l 0x11#8 .causePresent s
          else reply l 0x11#8 .done [] (clearTrip b s)) s) s

/-- CLEAR_TRIP. -/
def execClearTrip (l : Link) (payload : List Byte) (s : State) : Host.Outcome State Fault Refusal :=
  .next (validFrame l (takeClearTrip l payload) s)

end Sys2Proof.Machine
end

