-- ==== Sys2Proof/Machine/PlantRequests.lean ====
section
/-! DEFINITION. The requests that name no berth stage: module faults, clock, settings, notices, tariff tables, records
(R56, R148, R152, R162, R164, R171, R175, R176), and Plant Reset (R178). -/

namespace Sys2Proof.Machine

/-- The module a number from 1 to 12 names (R56). -/
def moduleOf (o : Byte) : Option ModuleId :=
  allModules.find? fun m => decide (m.val + 1 = o.toNat)

/-- Clear Module Fault (R56). -/
def takeClearModuleFault (l : Link) (payload : List Byte) (s : State) : State :=
  withPlain l 0x12#8 payload
    (fun s =>
      match moduleOf (octet payload 0) with
      | none => refuse l 0x12#8 .badValue s
      | some m =>
        if (s.module m).state = .faulted then reply l 0x12#8 .done [] (enterDark m s)
        else refuse l 0x12#8 .wrongStage s) s

/-- CLEAR_MODULE_FAULT. -/
def execClearModuleFault (l : Link) (payload : List Byte) (s : State) : Host.Outcome State Fault Refusal :=
  .next (validFrame l (takeClearModuleFault l payload) s)

/-- Set Clock (R152). -/
def takeSetClock (l : Link) (payload : List Byte) (s : State) : State :=
  withPlain l 0x1C#8 payload
    (fun s => reply l 0x1C#8 .done [] (setHarbourClock (BitVec.ofNat 32 (word32 payload 0)) s)) s

/-- SET_CLOCK. -/
def execSetClock (l : Link) (payload : List Byte) (s : State) : Host.Outcome State Fault Refusal :=
  .next (validFrame l (takeSetClock l payload) s)

/-- The settings a Set Berth Settings carries, with its numeric fields as they come (R170); `none` is a bad enumerated
field. -/
def parseSettings (p : List Byte) : Option BerthSettings :=
  match offeredOf (octet p 0), voltOf (octet p 1), prefOf (octet p 3) with
  | some f, some v, some pref =>
    some { frequencies := f, voltage := v, moduleLimit := (octet p 2).toNat, preference := pref,
           maxRate := word16 p 4, window := (octet p 6).toNat, slipMin := signed16 ((p.drop 7).take 2),
           slipMax := word16 p 9, targetSlip := word16 p 11, qualifyCount := (octet p 13).toNat,
           voltTolerance := (octet p 14).toNat, closingTime := (octet p 15).toNat, syncTimeout := word16 p 16 }
  | _, _, _ => none

/-- Berth settings with every numeric field within its range (R175). -/
def BerthSettings.clamped (g : BerthSettings) : BerthSettings :=
  { g with moduleLimit := clampTo 1 12 g.moduleLimit, maxRate := clampTo 50 2000 g.maxRate,
           window := clampTo 10 100 g.window, slipMin := clampInt (-200) 200 g.slipMin,
           slipMax := clampTo 20 500 g.slipMax, targetSlip := clampTo 10 300 g.targetSlip,
           qualifyCount := clampTo 1 8 g.qualifyCount, voltTolerance := clampTo 1 10 g.voltTolerance,
           closingTime := clampTo 40 250 g.closingTime, syncTimeout := clampTo 30 600 g.syncTimeout }

/-- Set Berth Settings (R175). -/
def takeSetBerthSettings (l : Link) (payload : List Byte) (s : State) : State :=
  withBerth l 0x1D#8 payload
    (fun b p s =>
      if (s.berth b).stage ≠ .vacant then refuse l 0x1D#8 .busy s
      else
        match parseSettings p with
        | none => refuse l 0x1D#8 .badValue s
        | some g =>
          reply l 0x1D#8 (doneOr (decide (g.clamped ≠ g))) []
            { s with settings := { s.settings with berths := s.settings.berths.set b g.clamped } }) s

/-- SET_BERTH_SETTINGS. -/
def execSetBerthSettings (l : Link) (payload : List Byte) (s : State) : Host.Outcome State Fault Refusal :=
  .next (validFrame l (takeSetBerthSettings l payload) s)

/-- The condition under which the module rating and L are accepted (R176). -/
def State.plantIdle (s : State) : Bool :=
  (allBerths.all fun b => decide ((s.berth b).stage = .vacant)) &&
    allModules.all fun m =>
      match (s.module m).state with
      | .dark | .ready | .faulted => true
      | _ => false

/-- Change the plant settings. -/
def State.modSettings (s : State) (f : Settings → Settings) : State :=
  { s with settings := f s.settings }

/-- The pool after a change of T_space or T_cycle (R57): pending expiries follow, a module made eligible re-examines the
queue, and a charge start may be due. A cycle time that had passed before the change, its event not taken yet, keeps that
event (log 26). -/
def spacingChanged (old s : State) : State :=
  let s := allModules.foldl
    (fun (s : State) m => s.modModule m fun x =>
      { x with cycleOpen := !s.cyclePassed m || (x.cycleOpen && old.cyclePassed m) }) s
  if allModules.any fun m => s.isEligible m && !old.isEligible m then examineQueue s else tryChargeStart s

/-- A lawful interval length (R176). -/
def lengthAllowed (v : Nat) : Bool :=
  v == 300 || v == 600 || v == 900 || v == 1800 || v == 3600

/-- Take a value of a plant setting, already within its range, and answer DONE or CLAMPED. -/
def takeSetting (l : Link) (given taken : Nat) (f : State → State) (s : State) : State :=
  reply l 0x1E#8 (doneOr (decide (taken ≠ given))) [] (f s)

/-- Set Plant Setting (R176; log 31), by the position of the setting in R176's table. -/
def setPlantSetting (l : Link) (setting : Nat) (v : Nat) (s : State) : State :=
  match setting with
  | 0 =>
    if !s.plantIdle then refuse l 0x1E#8 .busy s
    else
      let x := clampStep 500 4000 100 v
      takeSetting l v x (fun s => s.modSettings fun g => { g with rating := x }) s
  | 1 =>
    if !lengthAllowed v then refuse l 0x1E#8 .badValue s
    else if !s.plantIdle then refuse l 0x1E#8 .busy s
    else takeSetting l v v (fun s => s.modSettings fun g => { g with intervalLength := v }) s
  | 2 =>
    let x := clampTo 5 50 v
    takeSetting l v x (fun s => spacingChanged s (s.modSettings fun g => { g with tSpace := x })) s
  | 3 =>
    let x := clampTo 10 300 v
    takeSetting l v x (fun s => spacingChanged s (s.modSettings fun g => { g with tCycle := x })) s
  | 4 =>
    let x := clampTo 1000 60000 v
    takeSetting l v x (fun s => offerHeadroom (s.modSettings fun g => { g with importLimit := x })) s
  | 5 =>
    let x := clampTo 50 1000 v
    takeSetting l v x (fun s => s.modSettings fun g => { g with threshold := x }) s
  | _ => refuse l 0x1E#8 .badValue s

/-- Set Plant Setting (R176). -/
def takeSetPlantSetting (l : Link) (payload : List Byte) (s : State) : State :=
  withPlain l 0x1E#8 payload (setPlantSetting l (octet payload 0).toNat (word16 payload 1)) s

/-- SET_PLANT_SETTING. -/
def execSetPlantSetting (l : Link) (payload : List Byte) (s : State) : Host.Outcome State Fault Refusal :=
  .next (validFrame l (takeSetPlantSetting l payload) s)

/-- Read Notices (R171). -/
def takeReadNotices (l : Link) (payload : List Byte) (s : State) : State :=
  withPlain l 0x21#8 payload
    (fun s =>
      (reply l 0x21#8 .done (octets 8 (s.links.get l).flags.toNat) s).modLink l fun k =>
        { k with flags := 0#64, outstanding := false }) s

/-- READ_NOTICES. -/
def execReadNotices (l : Link) (payload : List Byte) (s : State) : Host.Outcome State Fault Refusal :=
  .next (validFrame l (takeReadNotices l payload) s)

/-- Set Notice Mask (R171). Bits of no flag stay 0. -/
def takeSetNoticeMask (l : Link) (payload : List Byte) (s : State) : State :=
  withPlain l 0x22#8 payload
    (fun s =>
      reply l 0x22#8 .done []
        (noticeIfEnabled l
          (s.modLink l fun k => { k with mask := BitVec.ofNat 64 (number payload) &&& Links.carried l }))) s

/-- SET_NOTICE_MASK. -/
def execSetNoticeMask (l : Link) (payload : List Byte) (s : State) : Host.Outcome State Fault Refusal :=
  .next (validFrame l (takeSetNoticeMask l payload) s)

/-- Keep Alive (R169). -/
def takeKeepAlive (l : Link) (payload : List Byte) (s : State) : State :=
  withPlain l 0x23#8 payload (fun s => reply l 0x23#8 .done [] s) s

/-- KEEP_ALIVE. -/
def execKeepAlive (l : Link) (payload : List Byte) (s : State) : Host.Outcome State Fault Refusal :=
  .next (validFrame l (takeKeepAlive l payload) s)

/-- The eight rates of a Load Tariff Table. -/
def parseRates (p : List Byte) : List Nat :=
  [0, 2, 4, 6, 8, 10, 12, 14].map (word16 p)

/-- The first so many switch points, each of a second (4) and a band (1). -/
def parsePoints (count : Nat) (p : List Byte) : List SwitchPoint :=
  match count with
  | 0 => []
  | n + 1 => { second := word32 p 0, band := (octet p 4).toNat } :: parsePoints n (p.drop 5)

/-- Are the seconds in ascending order, no two equal? (R148) -/
def ascending (points : List SwitchPoint) : Bool :=
  match points with
  | p :: q :: rest => decide (p.second < q.second) && ascending (q :: rest)
  | _ => true

/-- The table a Load Tariff Table carries, if it is acceptable (R148, R170). -/
def parseTable (p : List Byte) : Option TariffTable :=
  let count := (octet p 18).toNat
  if count = 0 ∨ 12 < count then none
  else
    let points := parsePoints count (p.drop 19)
    if (points.all fun x => decide (x.second ≤ 86399) && decide (1 ≤ x.band) && decide (x.band ≤ 8)) &&
        ascending points then
      some { rates := parseRates p, charge := word16 p 16, points := points }
    else none

/-- Load Tariff Table (R148). -/
def takeLoadTariffTable (l : Link) (payload : List Byte) (s : State) : State :=
  withPlain l 0x24#8 payload
    (fun s =>
      match parseTable payload with
      | none => refuse l 0x24#8 .badValue s
      | some t => reply l 0x24#8 .done [] { s with tariff := { s.tariff with pending := some t } }) s

/-- LOAD_TARIFF_TABLE. -/
def execLoadTariffTable (l : Link) (payload : List Byte) (s : State) : Host.Outcome State Fault Refusal :=
  .next (validFrame l (takeLoadTariffTable l payload) s)

/-- Marks as two octets: PARTIAL_START in the most significant bit of the first, TRIP in that of the second (R179;
log 23). -/
def recordMarks (k : Marks) : List Byte :=
  let bits := [k.partialStart, k.partialEnd, k.stretched, k.estimated, k.gap, k.clockSet, k.clockNotSet, k.noTariff]
  [bits.foldl (fun (o : Byte) x => (o <<< 1) ||| (if x then 1#8 else 0#8)) 0#8, if k.trip then 0x80#8 else 0#8]

/-- An Interval Record: 50 octets (R179). -/
def intervalLayout (n : BitVec 16) (r : IntervalRecord) : List Byte :=
  [berthOctet r.berth] ++ octets 2 n.toNat ++ textOctets (r.contract.getD []) ++ field 4 r.start.toNat ++
    field 4 r.length ++ field 1 r.band ++ field 8 r.delivered ++ field 8 r.reverse ++ field 8 r.charge ++
    field 2 r.demand ++ recordMarks r.marks ++ field 1 r.merged

/-- The page entries of a summary, unused ones with kind none and length 0 (R179; log 22). -/
def summaryPages (count : Nat) (pages : List Page) : List Byte :=
  match count, pages with
  | 0, _ => []
  | n + 1, p :: rest => pageKindOctet p.kind :: (textOctets p.text ++ summaryPages n rest)
  | n + 1, [] => Config.pageKindNone :: (textOctets [] ++ summaryPages n [])

/-- The end cause and the first cause (R179; logs 22, 23). -/
def endCauseOctets (c : EndCause) : List Byte :=
  match c with
  | .separated .normal => [0#8, Config.firstCauseNone]
  | .separated .couplerOpenedByShip => [1#8, Config.firstCauseNone]
  | .separated .couplerFailedToOpen => [2#8, Config.firstCauseNone]
  | .separated .forced => [3#8, Config.firstCauseNone]
  | .trip .emergencyStop => [4#8, 0#8]
  | .trip .plugPilot => [4#8, 1#8]
  | .trip .outletBreaker => [4#8, 2#8]
  | .trip .energiseTimeout => [4#8, 3#8]
  | .trip .couplerCloseFail => [4#8, 4#8]
  | .trip .earthPath => [4#8, 5#8]
  | .trip .overload => [4#8, 6#8]
  | .trip .shipLinkLoss => [4#8, 7#8]

/-- A Connection Summary: 100 octets (R179). -/
def summaryLayout (n : BitVec 16) (r : SummaryRecord) : List Byte :=
  [berthOctet r.berth] ++ octets 2 n.toNat ++ [BitVec.ofNat 8 r.terms.pages.length] ++ summaryPages 4 r.terms.pages ++
    field 2 r.terms.frequency.mHz ++ field 2 r.terms.voltage.volts ++ field 2 r.terms.agreedKw ++
    [roleOctet r.terms.role] ++ field 4 r.terms.connectedAt.toNat ++ field 4 r.separatedAt.toNat ++
    flag r.terms.clockNotSet ++ field 8 r.delivered ++ field 8 r.reverse ++ field 4 r.deliveredResidue ++
    field 4 r.reverseResidue ++ field 2 r.terms.charge ++ field 8 r.totalCharge ++ field 2 r.peak ++
    field 2 r.intervals ++ endCauseOctets r.endCause

/-- A kind octet and the record at the head of a queue, or NONE alone (R162, R164, R179; log 23). -/
def headItems (p : RecordPool) (queue : List RecordRef) : List Byte :=
  match queue with
  | [] => [2#8]
  | r :: _ =>
    match p.slots.get r.first with
    | .used n (.interval x) _ => 0#8 :: intervalLayout n x
    | .used n (.summary x) _ => 1#8 :: summaryLayout n x
    | _ => [2#8]

/-- Fetch Record (R162). -/
def takeFetchRecord (l : Link) (payload : List Byte) (s : State) : State :=
  withPlain l 0x25#8 payload (fun s => reply l 0x25#8 .done (headItems s.records s.records.tariffQueue) s) s

/-- FETCH_RECORD. -/
def execFetchRecord (l : Link) (payload : List Byte) (s : State) : Host.Outcome State Fault Refusal :=
  .next (validFrame l (takeFetchRecord l payload) s)

/-- Remove the head of the tariff queue (R162): its count falls, and a queue left empty arms the notice. -/
def popTariff (r : RecordRef) (rest : List RecordRef) (s : State) : State :=
  (releaseEntry r (s.modRecords fun p => { p with tariffQueue := rest })).modRecords fun p =>
    { p with tariffArmed := p.tariffArmed || p.tariffQueue.isEmpty }

/-- Release Record (R162). -/
def takeReleaseRecord (l : Link) (payload : List Byte) (s : State) : State :=
  withPlain l 0x26#8 payload
    (fun s =>
      match s.records.tariffQueue with
      | [] => refuse l 0x26#8 .badValue s
      | r :: rest =>
        if r.number.toNat = word16 payload 0 then reply l 0x26#8 .done [] (popTariff r rest s)
        else refuse l 0x26#8 .badValue s) s

/-- RELEASE_RECORD. -/
def execReleaseRecord (l : Link) (payload : List Byte) (s : State) : Host.Outcome State Fault Refusal :=
  .next (validFrame l (takeReleaseRecord l payload) s)

/-- Fetch Copy (R164). -/
def takeFetchCopy (l : Link) (payload : List Byte) (s : State) : State :=
  withBerth l 0x27#8 payload
    (fun b _ s =>
      reply l 0x27#8 .done
        (headItems s.records (s.records.copyQueues.get b) ++ field 1 (s.records.missedCopies.get b)) s) s

/-- FETCH_COPY. -/
def execFetchCopy (l : Link) (payload : List Byte) (s : State) : Host.Outcome State Fault Refusal :=
  .next (validFrame l (takeFetchCopy l payload) s)

/-- A berth's missed copies become 0 (R164). -/
def clearMissed (b : Berth) (s : State) : State :=
  s.modRecords fun p => { p with missedCopies := p.missedCopies.set b 0 }

/-- Remove the head of a ship copy queue (R164): its count falls, the missed copies become 0, and a queue left empty arms
the notice. -/
def popCopy (b : Berth) (r : RecordRef) (rest : List RecordRef) (s : State) : State :=
  (clearMissed b
    (releaseEntry r (s.modRecords fun p => { p with copyQueues := p.copyQueues.set b rest }))).modRecords fun p =>
      { p with copyArmed := p.copyArmed.set b (p.copyArmed.get b || (p.copyQueues.get b).isEmpty) }

/-- Release Copy (R164). -/
def takeReleaseCopy (l : Link) (payload : List Byte) (s : State) : State :=
  withBerth l 0x28#8 payload
    (fun b p s =>
      match s.records.copyQueues.get b with
      | [] => reply l 0x28#8 .done [] (clearMissed b s)
      | r :: rest =>
        if r.number.toNat = word16 p 0 then reply l 0x28#8 .done [] (popCopy b r rest s)
        else refuse l 0x28#8 .badValue s) s

/-- RELEASE_COPY. -/
def execReleaseCopy (l : Link) (payload : List Byte) (s : State) : Host.Outcome State Fault Refusal :=
  .next (validFrame l (takeReleaseCopy l payload) s)

end Sys2Proof.Machine
end

