-- ==== Sys2Proof/Machine/Reads.lean ====
section
/-! DEFINITION. The reads (R4, R68, R84, R100, R120, R136, R153, R166, R174): replies listing state, in the order of the
rule of each request and laid out as R170 says (log 23). None changes any state but its own reply, save that a Read Berth
on the shore link clears the change flags (R122). -/

namespace Sys2Proof.Machine

/-- The position of a stage in the manual's list (R1). -/
def stageOctet (g : Stage) : Byte :=
  match g with
  | .vacant => 0#8
  | .negotiating => 1#8
  | .agreed => 2#8
  | .allocating => 3#8
  | .energising => 4#8
  | .synchronising => 5#8
  | .parallel => 6#8
  | .rampingIn => 7#8
  | .shoreCarrying => 8#8
  | .rampingOut => 9#8
  | .separating => 10#8
  | .releasing => 11#8
  | .tripped => 12#8

/-- NONE, SHORE, SHIP (R1). -/
def holderOctet (h : Holder) : Byte :=
  match h with
  | .nobody => 0#8
  | .shore => 1#8
  | .ship => 2#8

/-- The causes in the order of R127's table. -/
def allCauses : List TripCause :=
  [.emergencyStop, .plugPilot, .outletBreaker, .energiseTimeout, .couplerCloseFail, .earthPath, .overload,
   .shipLinkLoss]

/-- A cause's position (R127). -/
def causeOctet (c : TripCause) : Byte :=
  match c with
  | .emergencyStop => 0#8
  | .plugPilot => 1#8
  | .outletBreaker => 2#8
  | .energiseTimeout => 3#8
  | .couplerCloseFail => 4#8
  | .earthPath => 5#8
  | .overload => 6#8
  | .shipLinkLoss => 7#8

/-- A set as bits, the first member's in the most significant place. -/
def setOctet (members : List Bool) : Byte :=
  members.foldl (fun (o : Byte) x => (o <<< 1) ||| (if x then 1#8 else 0#8)) 0#8

/-- A cause set. -/
def causeSetOctet (causes : List TripCause) : Byte :=
  setOctet (allCauses.map fun c => decide (c ∈ causes))

/-- A separation cause's position (R1, after "absent"). -/
def separationOctet (c : SeparationCause) : Byte :=
  match c with
  | .normal => 0#8
  | .couplerOpenedByShip => 1#8
  | .couplerFailedToOpen => 2#8
  | .forced => 3#8

/-- CLOSED, OPEN (R121). -/
def contactOctet (c : Contact) : Byte :=
  match c with
  | .closed => 0#8
  | .opened => 1#8

/-- HEALTHY, FAILED (R121). -/
def earthOctet (r : EarthResult) : Byte :=
  match r with
  | .healthy => 0#8
  | .failed => 1#8

/-- A Continuation Page phase's position (R28). -/
def phaseOctet (p : Phase) : Byte :=
  match p with
  | .idle => 0#8
  | .offered => 1#8
  | .collecting => 2#8
  | .concluded => 3#8

/-- The five results in R28's order, after "absent". -/
def resultOctet (r : Resolution) : Byte :=
  match r with
  | .compatible => 0#8
  | .badFrequency => 1#8
  | .badVoltage => 2#8
  | .badPower => 3#8
  | .badRole => 4#8

/-- A list: a count octet and the entries. -/
def listItems {α : Type} (item : α → List Byte) (l : List α) : List Byte :=
  BitVec.ofNat 8 l.length :: l.flatMap item

/-- A continuation page: kind and text. -/
def pageItems (p : Page) : List Byte := pageKindOctet p.kind :: textOctets p.text

/-- An agreement (R1); frequency and voltage go as list positions (log 23). -/
def agreementItems (a : Agreement) : List Byte :=
  [freqOctet a.frequency, voltOctet a.voltage] ++ num a.agreedKw ++ num a.minimumKw ++ [roleOctet a.role] ++
    listItems pageItems a.pages

/-- Whole seconds left on a timer. -/
def State.secondsLeft (s : State) (expiry : Option Nat) : Option Nat :=
  expiry.map fun e => (e - s.now) / ticksPerSecond

/-- Whole milliseconds left on a timer. -/
def State.msLeft (s : State) (expiry : Option Nat) : Option Nat :=
  expiry.map fun e => (e - s.now) / ticksPerMs

/-- A moment as a value of the time base. -/
def momentItem (t : Nat) : List Byte := num (t % 2 ^ 32)

/-- Whole seconds since a time of the elapsed-time count. -/
def State.secondsSince (s : State) (ms : Nat) : Nat := (s.elapsedMs - ms) / 1000

/-- The age of a ship status in s (R1). -/
def State.statusAge (s : State) (x : ShipStatus) : Nat :=
  min 65535 ((s.now - x.takenAt) / ticksPerSecond)

/-- A ship status: load, generators, age (R1). -/
def State.statusItems (s : State) (x : ShipStatus) : List Byte :=
  num x.loadKw ++ num x.generators ++ num (s.statusAge x)

/-- The berth record (R1), in the order of its table; a pending request goes as its time alone, a stopped stage timer as
absent (log 23). -/
def State.recordItems (s : State) (b : Berth) : List Byte :=
  let r := s.berth b
  flag r.inService ++ [stageOctet r.stage, holderOctet r.holder] ++ optional 4 momentItem r.pendingSince ++
    optional 12 agreementItems r.agreement ++ [causeSetOctet r.causes] ++
    optional 1 (fun c => [causeOctet c]) r.causes.head? ++ optional 12 s.statusItems r.status ++
    num r.moduleCount ++ flag r.summaryReserved ++ flag r.linkLost ++ flag r.syncHold ++
    optional 1 (fun c => [separationOctet c]) r.separationCause ++ optional 4 momentItem r.stageTimer ++
    optional 4 momentItem r.qualification

/-- The five input levels and the five change flags (R121, R122). -/
def inputItems (c : Section) : List Byte :=
  [contactOctet c.emergencyStop, contactOctet c.plugPilot, contactOctet c.outletAux, contactOctet c.couplerAux,
   earthOctet c.earthResult] ++
    flag c.flags.emergencyStop ++ flag c.flags.plugPilot ++ flag c.flags.outletAux ++ flag c.flags.couplerAux ++
    flag c.flags.earthResult

/-- The reply of Read Berth (R4). -/
def State.berthItems (s : State) (b : Berth) : List Byte :=
  let r := s.berth b
  let u := s.unit b
  s.recordItems b ++ optNum (s.secondsLeft (r.pendingSince.map fun t => t + 30 * ticksPerSecond)) ++
    optional 1 (fun x => [resultOctet x]) u.resolution ++ num r.moduleCount ++ num (s.ramp b).capacity ++
    num u.pages.length ++ [phaseOctet u.phase] ++ inputItems (s.sec b)

/-- Read Berth (R4); on the shore link it clears the change flags (R122). -/
def takeReadBerth (l : Link) (payload : List Byte) (s : State) : State :=
  withBerth l 0x03#8 payload
    (fun b _ s =>
      let s := reply l 0x03#8 .done (s.berthItems b) s
      match l with
      | .shore => s.modSec b fun c => { c with flags := ChangeFlags.clear }
      | _ => s) s

/-- READ_BERTH. -/
def execReadBerth (l : Link) (payload : List Byte) (s : State) : Host.Outcome State Fault Refusal :=
  .next (validFrame l (takeReadBerth l payload) s)

/-- A module state's position (R46). -/
def moduleStateOctet (x : ModuleState) : Byte :=
  match x with
  | .dark => 0#8
  | .charging => 1#8
  | .ready => 2#8
  | .running => 3#8
  | .draining => 4#8
  | .faulted => 5#8

/-- A fault cause: MODULE_REPORTED with its code, a numeric item (R170), or CHARGE_TIMEOUT, with zeros in the code's place
(R46; log 23). -/
def faultItems (f : FaultCause) : List Byte :=
  match f with
  | .moduleReported code => 0#8 :: num code.toNat
  | .chargeTimeout => 1#8 :: num 0

/-- A module's entry (R68). A module with no berth has its berth item absent (log 23). -/
def State.moduleItems (s : State) (m : ModuleId) : List Byte :=
  let x := s.module m
  [moduleStateOctet x.state] ++ optional 1 (fun b => [berthOctet b]) x.berth ++ num x.share ++
    optional 5 faultItems x.fault ++ num (s.secondsSince x.entryTime) ++ num (s.secondsSince x.lastChargeStart)

/-- An allocation queue entry (R68). -/
def State.queueItems (s : State) (e : QueueEntry) : List Byte :=
  [berthOctet e.berth, match e.kind with | .new => 0#8 | .replacement => 1#8] ++ num e.wanted ++
    num (s.secondsSince e.entered)

/-- The reply of Read Module Pool (R68). -/
def State.poolItems (s : State) : List Byte :=
  allModules.flatMap s.moduleItems ++ listItems s.queueItems s.pool.queue ++
    listItems (fun (m : ModuleId) => num (m.val + 1)) s.pool.chargeList ++
    num (s.secondsSince s.pool.plantLastStart) ++ allBerths.flatMap fun b => num (s.ramp b).capacity

/-- Read Module Pool (R68). -/
def takeReadModulePool (l : Link) (payload : List Byte) (s : State) : State :=
  withPlain l 0x13#8 payload (fun s => reply l 0x13#8 .done s.poolItems s) s

/-- READ_MODULE_POOL. -/
def execReadModulePool (l : Link) (payload : List Byte) (s : State) : Host.Outcome State Fault Refusal :=
  .next (validFrame l (takeReadModulePool l payload) s)

/-- A capture input (R84). -/
def State.captureItems (s : State) (side : BusSide) (b : Berth) : List Byte :=
  let r := s.input side b
  [if r.live then 0#8 else 1#8] ++ optNum (r.period.map BitVec.toNat) ++ flag r.valid ++ optNum r.frequency ++
    optNum (r.latest.map fun t => (s.timeBase - t).toNat)

/-- A reference mode's position (R74). -/
def modeOctet (m : RefMode) : Byte :=
  match m with
  | .stopped => 0#8
  | .free => 1#8
  | .trim => 2#8
  | .follow => 3#8
  | .form => 4#8

/-- A Reference Generator (R84). -/
def referenceItems (r : Reference) : List Byte :=
  [modeOctet r.mode] ++ optNum r.commanded ++ flag r.clamped ++ num r.word.toNat ++ num (phaseOf r.accumulator)

/-- A berth's last values and their age (R84). -/
def State.lastItems (s : State) (b : Berth) : List Byte :=
  optional 12 (fun (v : BusValues) => num v.outlet.toNat ++ num v.shipBus.toNat ++ snum v.power.toInt)
      (s.port.last.get b) ++
    num (s.port.age.get b)

/-- What Read Measurement gives of a berth (R84): all of its ZS input, then all of its ZO input (log 23). -/
def State.measurementItems (s : State) (b : Berth) : List Byte :=
  s.captureItems .ship b ++ s.captureItems .outlet b ++ referenceItems (s.reference b) ++ s.lastItems b

/-- What Read Measurement gives of the receiver on the shore link (R84). -/
def portItems (p : SamplePort) : List Byte :=
  num p.strobeCount.toNat ++ num p.missing ++ num p.badFrames ++ num p.lateFrames ++ num p.duplicates

/-- Read Measurement (R84); on the shore link berth by berth (log 23). -/
def takeReadMeasurement (l : Link) (payload : List Byte) (s : State) : State :=
  withPlain l 0x14#8 payload
    (fun s =>
      match l with
      | .ship b => reply l 0x14#8 .done (s.measurementItems b) s
      | _ => reply l 0x14#8 .done (allBerths.flatMap s.measurementItems ++ portItems s.port) s) s

/-- READ_MEASUREMENT. -/
def execReadMeasurement (l : Link) (payload : List Byte) (s : State) : Host.Outcome State Fault Refusal :=
  .next (validFrame l (takeReadMeasurement l payload) s)

/-- A verdict's octet: the verdicts in the order in which R88 to R91 and R93 name them, the model's own list (log 23). -/
def verdictOctet (v : Verdict) : Byte :=
  match v with
  | .shipNotLive => 0#8
  | .lateShipCrossing => 1#8
  | .noOutletPeriod => 2#8
  | .voltageStale => 3#8
  | .closeInFlight => 4#8
  | .slipLow => 5#8
  | .slipHigh => 6#8
  | .angle => 7#8
  | .voltage => 8#8
  | .shipFrequency => 9#8
  | .earthCheck => 10#8
  | .qualifying => 11#8
  | .poolLow => 12#8

/-- The last computation (R91). -/
def computationItems (c : Computation) : List Byte :=
  num c.tOut.toNat ++ optNum c.delta ++ optional 4 snum c.theta ++ optional 4 snum c.slip ++
    optional 4 snum c.advanceAngle ++ optional 4 snum c.predicted ++ optNum c.outletVolts ++ optNum c.shipVolts ++
    optNum c.voltDifference ++ optNum c.outletFreq ++ optNum c.shipFreq ++ [verdictOctet c.verdict] ++ num c.count

/-- The reply of Read Synchroniser (R100); close-in-flight and held timeout that are set go as a yes, a stopped timer as
absent (log 23). -/
def State.syncItems (s : State) (b : Berth) : List Byte :=
  let y := s.sync b
  flag y.running ++ num y.count ++ num (s.setting b).qualifyCount ++ flag y.inFlight ++
    optNum (s.msLeft y.supervision) ++ num y.failures ++ optNum (s.secondsLeft y.syncTimer) ++ flag y.heldTimeout ++
    flag y.earthCheck ++ optional 59 computationItems y.last

/-- Read Synchroniser (R100). -/
def takeReadSynchroniser (l : Link) (payload : List Byte) (s : State) : State :=
  withBerth l 0x15#8 payload (fun b _ s => reply l 0x15#8 .done (s.syncItems b) s) s

/-- READ_SYNCHRONISER. -/
def execReadSynchroniser (l : Link) (payload : List Byte) (s : State) : Host.Outcome State Fault Refusal :=
  .next (validFrame l (takeReadSynchroniser l payload) s)

/-- A ramp state's position (R101). -/
def rampStateOctet (x : RampState) : Byte :=
  match x with
  | .idle => 0#8
  | .moving => 1#8
  | .held => 2#8

/-- A berth's place on the waiting list, the head's being 1, and its wanted amount. -/
def State.waitPlace (s : State) (b : Berth) : Option (Nat × Nat) :=
  (s.waitEntry b).map fun e => (s.budget.waiting.findIdx (fun x => decide (x.berth = b)) + 1, e.wanted)

/-- The reply of Read Ramp (R120); a stopped timer goes as absent (log 23). -/
def State.rampItems (s : State) (b : Berth) : List Byte :=
  let r := s.ramp b
  let c := s.sec b
  num r.setpoint ++ num r.wanted ++ num (s.boundedTarget b) ++ num r.target ++ num r.rate ++
    [rampStateOctet r.state] ++ flag r.suspended ++ num r.capacity ++
    optNum ((s.berth b).agreement.map Agreement.agreedKw) ++ num (s.reservation b) ++
    optional 8 (fun (x : Nat × Nat) => num x.1 ++ num x.2) (s.waitPlace b) ++
    optNum (s.secondsLeft r.separationWait) ++ flag r.separationDelayed ++
    optional 4 (fun (v : BusValues) => snum (measuredKw v.power)) (s.port.last.get b) ++ num (s.port.age.get b) ++
    flag c.overCapacity ++ optNum (s.secondsLeft c.overloadTimer)

/-- Read Ramp (R120). -/
def takeReadRamp (l : Link) (payload : List Byte) (s : State) : State :=
  withBerth l 0x16#8 payload (fun b _ s => reply l 0x16#8 .done (s.rampItems b) s) s

/-- READ_RAMP. -/
def execReadRamp (l : Link) (payload : List Byte) (s : State) : Host.Outcome State Fault Refusal :=
  .next (validFrame l (takeReadRamp l payload) s)

/-- A waiting-list entry with its outstanding amount (R120). -/
def State.waitItems (s : State) (e : WaitEntry) : List Byte :=
  [berthOctet e.berth] ++ num e.wanted ++ num (e.wanted - s.reservation e.berth)

/-- The reply of Read Budget (R120). -/
def State.budgetItems (s : State) : List Byte :=
  num s.settings.importLimit ++ (allBerths.flatMap fun b => num (s.reservation b)) ++ snum s.headroom ++
    flag s.budget.exceeded ++ listItems s.waitItems s.budget.waiting

/-- Read Budget (R120). -/
def takeReadBudget (l : Link) (payload : List Byte) (s : State) : State :=
  withPlain l 0x17#8 payload (fun s => reply l 0x17#8 .done s.budgetItems s) s

/-- READ_BUDGET. -/
def execReadBudget (l : Link) (payload : List Byte) (s : State) : Host.Outcome State Fault Refusal :=
  .next (validFrame l (takeReadBudget l payload) s)

/-- The outlet supervision: NONE, CLOSING, OPENING, and the milliseconds left, absent with NONE (R136; log 23). -/
def State.supervisionItems (s : State) (x : OutletSupervision) : List Byte :=
  match x with
  | .idle => 0#8 :: optNum none
  | .closing e => 1#8 :: optNum (s.msLeft (some e))
  | .opening e => 2#8 :: optNum (s.msLeft (some e))

/-- The earth-path schedule: an octet for INACTIVE, WAITING or RUNNING, which R136 does not list, the seconds to its time,
and the forced mark, sent as no while no check runs (R136; log 23). -/
def State.scheduleItems (s : State) (x : EarthSchedule) : List Byte :=
  match x with
  | .inactive => 0#8 :: (optNum none ++ flag false)
  | .waiting due => 1#8 :: (optNum (s.secondsLeft (some due)) ++ flag false)
  | .running ending forced => 2#8 :: (optNum (s.secondsLeft (some ending)) ++ flag forced)

/-- The reply of Read Protection (R136); a last check result goes as HEALTHY 00h or FAILED 01h behind its presence octet
(log 23). -/
def State.protectionItems (s : State) (b : Berth) : List Byte :=
  let c := s.sec b
  let causes := (s.berth b).causes
  inputItems c ++ [match c.outletCommand with | .opened => 0#8 | .closed => 1#8] ++
    s.supervisionItems c.supervision ++ flag c.couplerOpen.isSome ++ s.scheduleItems c.schedule ++ num c.deferrals ++
    optional 1 (fun r => [earthOctet r]) c.lastCheck ++ optNum (s.secondsLeft c.graceTimer) ++
    [causeSetOctet causes] ++ optional 1 (fun x => [causeOctet x]) causes.head? ++
    ((allCauses.filter fun x => decide (x ∈ causes)).flatMap fun x => flag (c.holdsCause x))

/-- Read Protection (R136). -/
def takeReadProtection (l : Link) (payload : List Byte) (s : State) : State :=
  withBerth l 0x18#8 payload (fun b _ s => reply l 0x18#8 .done (s.protectionItems b) s) s

/-- READ_PROTECTION. -/
def execReadProtection (l : Link) (payload : List Byte) (s : State) : Host.Outcome State Fault Refusal :=
  .next (validFrame l (takeReadProtection l payload) s)

/-- Marks as two octets, from the most significant bit (R179; log 23). -/
def marksOctets (k : Marks) : List Byte :=
  [setOctet [k.partialStart, k.partialEnd, k.stretched, k.estimated, k.gap, k.clockSet, k.clockNotSet, k.noTariff],
   setOctet [k.trip, false, false, false, false, false, false, false]]

/-- The connection terms, connected-at and the connection charge, as one record (R153); frequency and voltage go as list
positions (log 23). -/
def termsItems (t : ConnectionTerms) : List Byte :=
  [freqOctet t.frequency, voltOctet t.voltage] ++ num t.agreedKw ++ [roleOctet t.role] ++
    listItems pageItems t.pages ++ optional 9 textOctets t.contract ++ num t.connectedAt.toNat ++ num t.charge

/-- The current interval (R153). -/
def intervalItems (i : Interval) : List Byte :=
  num i.start.toNat ++ num i.elapsed ++ num i.band ++ num i.rate ++ marksOctets i.marks ++ num i.merged

/-- Connection totals (R137). -/
def totalsItems (t : Totals) : List Byte :=
  num t.delivered ++ num t.reverse ++ num t.charges ++ num t.intervals ++ num t.peak

/-- The reply of Read Meter (R153); absent terms go as the 26 zeros of terms without pages (log 23). -/
def meterItems (m : Meter) : List Byte :=
  flag m.connected ++ optional 26 termsItems m.terms ++ num m.delivered ++ num m.reverse ++
    optional 22 intervalItems m.interval ++ num m.missed ++ totalsItems m.totals ++
    optNum (m.held.map IntervalRecord.delivered)

/-- Read Meter (R153). -/
def takeReadMeter (l : Link) (payload : List Byte) (s : State) : State :=
  withBerth l 0x19#8 payload (fun b _ s => reply l 0x19#8 .done (meterItems (s.meter b)) s) s

/-- READ_METER. -/
def execReadMeter (l : Link) (payload : List Byte) (s : State) : Host.Outcome State Fault Refusal :=
  .next (validFrame l (takeReadMeter l payload) s)

/-- A tariff table (R147). -/
def tableItems (t : TariffTable) : List Byte :=
  t.rates.flatMap num ++ num t.charge ++ listItems (fun (p : SwitchPoint) => num p.second ++ num p.band) t.points

/-- Seconds to the next boundary: the next multiple of L, or the wrap to 0 (R151), counted in clock values (log 23). -/
def secondsToBoundary (clock : BitVec 32) (length : Nat) : Nat :=
  min (length - clock.toNat % length) (2 ^ 32 - clock.toNat)

/-- The reply of Read Tariff (R153); an absent table goes as the 37 zeros of one without switch points (log 23). -/
def State.tariffItems (s : State) : List Byte :=
  let t := s.tariff
  let now := bandAndRate t.active t.clock
  optional 37 tableItems t.active ++ optional 37 tableItems t.pending ++ num t.clock.toNat ++ flag t.notSet ++
    num s.settings.intervalLength ++ num (secondsToBoundary t.clock s.settings.intervalLength) ++ num now.1 ++
    num now.2.1

/-- Read Tariff (R153). -/
def takeReadTariff (l : Link) (payload : List Byte) (s : State) : State :=
  withPlain l 0x1A#8 payload (fun s => reply l 0x1A#8 .done s.tariffItems s) s

/-- READ_TARIFF. -/
def execReadTariff (l : Link) (payload : List Byte) (s : State) : Host.Outcome State Fault Refusal :=
  .next (validFrame l (takeReadTariff l payload) s)

/-- A record's number. -/
def refNumber (r : RecordRef) : Nat := r.number.toNat

/-- The reply of Read Record Pool (R166); a condition or mark that is set goes as a yes (log 23). -/
def RecordPool.items (p : RecordPool) : List Byte :=
  num p.freeSlotCount ++ num p.usedSlotCount ++ num p.reservedSlotCount ++
    (allBerths.flatMap fun b => flag !(p.reservedSlots b).isEmpty) ++ flag p.poolLow ++ num p.nextNumber.toNat ++
    num p.tariffQueue.length ++ optNum (p.tariffQueue.head?.map refNumber) ++
    optNum (p.tariffQueue.getLast?.map refNumber) ++
    (allBerths.flatMap fun b =>
      num (p.copyQueues.get b).length ++ optNum ((p.copyQueues.get b).head?.map refNumber) ++
        num (p.missedCopies.get b)) ++
    listItems (fun (h : HeldEntry) => berthOctet h.berth :: flag h.copyWanted) p.held

/-- Read Record Pool (R166). -/
def takeReadRecordPool (l : Link) (payload : List Byte) (s : State) : State :=
  withPlain l 0x1B#8 payload (fun s => reply l 0x1B#8 .done s.records.items s) s

/-- READ_RECORD_POOL. -/
def execReadRecordPool (l : Link) (payload : List Byte) (s : State) : Host.Outcome State Fault Refusal :=
  .next (validFrame l (takeReadRecordPool l payload) s)

/-- The thirteen settings of a berth, in the order of R175. -/
def settingItems (g : BerthSettings) : List Byte :=
  [offeredOctet g.frequencies, voltOctet g.voltage] ++ num g.moduleLimit ++ [prefOctet g.preference] ++
    num g.maxRate ++ num g.window ++ snum g.slipMin ++ num g.slipMax ++ num g.targetSlip ++ num g.qualifyCount ++
    num g.voltTolerance ++ num g.closingTime ++ num g.syncTimeout

/-- The reply of Read Settings (R174): the berths' settings, then the plant's in the order of R176 (log 23). -/
def Settings.items (g : Settings) : List Byte :=
  (allBerths.flatMap fun b => settingItems (g.berths.get b)) ++ num g.rating ++ num g.intervalLength ++
    num g.tSpace ++ num g.tCycle ++ num g.importLimit ++ num g.threshold

/-- Read Settings (R174). -/
def takeReadSettings (l : Link) (payload : List Byte) (s : State) : State :=
  withPlain l 0x1F#8 payload (fun s => reply l 0x1F#8 .done s.settings.items s) s

/-- READ_SETTINGS. -/
def execReadSettings (l : Link) (payload : List Byte) (s : State) : Host.Outcome State Fault Refusal :=
  .next (validFrame l (takeReadSettings l payload) s)

end Sys2Proof.Machine
end

