-- ==== Sys2Proof/Machine/Resets.lean ====
section
/-! DEFINITION. The RESET line, power-on (R177) and Plant Reset (R178). -/

namespace Sys2Proof.Machine

/-- Send DISCHARGE to every module (R46, R47). -/
def dischargeAll (s : State) : State :=
  allModules.foldl (fun s m => emit (.discharge m) s) s

/-- The first reading of every berth's inputs (R121). -/
def firstReadings (s : State) : State :=
  allBerths.foldl (fun s b => firstReading b s) s

/-- A section after a reset: its inputs read on, the rest returns to R121's values. -/
def Section.afterReset (c : Section) : Section :=
  Section.reset c.emergencyStop c.plugPilot c.outletAux c.couplerAux c.earthResult

/-- The part at the release of the RESET line, the commands waiting and the numbering of free choices apart (R177). -/
def released (s : State) : State :=
  { State.afterReset ⟨s.sections.a.afterReset, s.sections.b.afterReset, s.sections.c.afterReset⟩ with
    freeCount := s.freeCount, pending := s.pending }

/-- The release of the RESET line (R177): reset values, DISCHARGE to every module, the first reading. -/
def takeResetLine (s : State) : State :=
  settleExceeded (firstReadings (dischargeAll (released s)))

/-- RESET_LINE. -/
def execResetLine (s : State) : Host.Outcome State Fault Refusal :=
  .next (takeResetLine s)

/-- POWER_ON acts as a RESET line released when the supply has become good (R177). -/
def execPowerOn (s : State) : Host.Outcome State Fault Refusal :=
  .next (takeResetLine s)

/-- A section while the RESET line is held: the outlet commanded open, the lines released (R177). -/
def Section.held (c : Section) : Section :=
  { c with outletCommand := .opened, couplerOpen := none, checkRequest := false }

/-- RESET_LINE_ASSERTED (R177). -/
def takeResetLineAsserted (s : State) : State :=
  { s with
    resetHeld := true, sent := [], sections := ⟨s.sections.a.held, s.sections.b.held, s.sections.c.held⟩,
    syncs := ⟨{ s.syncs.a with closeLine := false }, { s.syncs.b with closeLine := false },
              { s.syncs.c with closeLine := false }⟩ }

/-- RESET_LINE_ASSERTED. -/
def execResetLineAsserted (s : State) : Host.Outcome State Fault Refusal :=
  .next (takeResetLineAsserted s)

/-- The stages in which a Plant Reset is accepted (R178). -/
def Stage.resettable (g : Stage) : Bool :=
  match g with
  | .vacant | .agreed | .tripped => true
  | _ => false

/-- A berth record after a Plant Reset, its agreement and stage apart (R2). -/
def BerthRecord.plantReset (r : BerthRecord) : BerthRecord :=
  { r with holder := .nobody, pendingSince := none, causes := [], status := none, moduleCount := 0,
           summaryReserved := false, syncHold := false, separationCause := none, stageTimer := none,
           qualification := none }

/-- A berth after a Plant Reset (R2, R29): AGREED keeps its stage, agreement and Agreement Unit; another berth is put in
VACANT without an agreement, without a notice and with its copy queue whole. The capture records stay as they are (R70, R178),
the running dead timers of a berth that so loses a 60 Hz agreement among them, where R72 would move them (log 44). -/
def plantResetBerth (b : Berth) (s : State) : State :=
  let s := s.modBerth b BerthRecord.plantReset
  if (s.berth b).stage = .agreed then s
  else
    (s.modBerth b fun r => { r with stage := .vacant, agreement := none }).modUnit b fun _ => AgreementUnit.reset

/-- A link after a Plant Reset: flags, mask and outstanding (R178). -/
def LinkState.plantReset (l : Link) (k : LinkState) : LinkState :=
  { k with flags := 0#64, mask := Links.carried l, outstanding := false }

/-- The links after a Plant Reset. -/
def Links.plantReset (k : Links) : Links :=
  { shore := k.shore.plantReset .shore,
    ships := ⟨k.ships.a.plantReset (.ship .A), k.ships.b.plantReset (.ship .B), k.ships.c.plantReset (.ship .C)⟩,
    tariff := k.tariff.plantReset .tariff }

/-- A Meter channel after a Plant Reset (R137). -/
def Meter.plantReset (m : Meter) : Meter :=
  { Meter.reset with missed := m.missed, held := m.held }

/-- The reset values of a Plant Reset (R178), before anything follows. -/
def plantResetValues (s : State) : State :=
  let s := allBerths.foldl (fun s b => plantResetBerth b s) s
  { s with
    pool := ModulePool.reset s.elapsedMs, references := .same Reference.reset, syncs := .same Synchroniser.reset,
    ramps := .same Ramp.reset, budget := Budget.reset,
    sections := ⟨s.sections.a.afterReset, s.sections.b.afterReset, s.sections.c.afterReset⟩,
    meters := ⟨s.meters.a.plantReset, s.meters.b.plantReset, s.meters.c.plantReset⟩, links := s.links.plantReset }

/-- Plant Reset (R178): the values, the reply, then what follows: passing on to NEGOTIATING (R7) and the first reading
(R121), each serving A, B and C in turn (log 19). -/
def takePlantReset (l : Link) (payload : List Byte) (s : State) : State :=
  withPlain l 0x20#8 payload
    (fun s =>
      if allBerths.all fun b => (s.berth b).stage.resettable then
        let s := reply l 0x20#8 .done [] (plantResetValues (dischargeAll s))
        firstReadings (allBerths.foldl (fun s b => passOn b s) s)
      else refuse l 0x20#8 .wrongStage s) s

/-- PLANT_RESET. -/
def execPlantReset (l : Link) (payload : List Byte) (s : State) : Host.Outcome State Fault Refusal :=
  .next (validFrame l (takePlantReset l payload) s)

end Sys2Proof.Machine
end

