-- ==== Sys2Proof/Machine/Receiver.lean ====
section
/-! DEFINITION. The receiver of a link (R168): a request by its code, an unknown request, a frame of another kind, and the
hunt for a sync octet after a discarded frame. -/

namespace Sys2Proof.Machine

/-- A request is taken by its code; the reply to a code the part does not know is UNKNOWN (R168). -/
def takeRequest (l : Link) (code : Byte) (payload : List Byte) (s : State) : State :=
  match code.toNat with
  | 0x01 => takeBerthEnable l payload s
  | 0x02 => takeBerthDisable l payload s
  | 0x03 => takeReadBerth l payload s
  | 0x04 => takeReadOffer l payload s
  | 0x05 => takeShipStatus l payload s
  | 0x06 => takeRequestPage l payload s
  | 0x07 => takeContinuationPage l payload s
  | 0x08 => takeRequestAuthority l payload s
  | 0x09 => takeReleaseAuthority l payload s
  | 0x0A => takeSeizeAuthority l payload s
  | 0x0B => takeConnect l payload s
  | 0x0C => takeRampStep l payload s
  | 0x0D => takeHold l payload s
  | 0x0E => takeDepart l payload s
  | 0x0F => takeAbort l payload s
  | 0x10 => takeForceSeparate l payload s
  | 0x11 => takeClearTrip l payload s
  | 0x12 => takeClearModuleFault l payload s
  | 0x13 => takeReadModulePool l payload s
  | 0x14 => takeReadMeasurement l payload s
  | 0x15 => takeReadSynchroniser l payload s
  | 0x16 => takeReadRamp l payload s
  | 0x17 => takeReadBudget l payload s
  | 0x18 => takeReadProtection l payload s
  | 0x19 => takeReadMeter l payload s
  | 0x1A => takeReadTariff l payload s
  | 0x1B => takeReadRecordPool l payload s
  | 0x1C => takeSetClock l payload s
  | 0x1D => takeSetBerthSettings l payload s
  | 0x1E => takeSetPlantSetting l payload s
  | 0x1F => takeReadSettings l payload s
  | 0x20 => takePlantReset l payload s
  | 0x21 => takeReadNotices l payload s
  | 0x22 => takeSetNoticeMask l payload s
  | 0x23 => takeKeepAlive l payload s
  | 0x24 => takeLoadTariffTable l payload s
  | 0x25 => takeFetchRecord l payload s
  | 0x26 => takeReleaseRecord l payload s
  | 0x27 => takeFetchCopy l payload s
  | 0x28 => takeReleaseCopy l payload s
  | _ => reply l code .unknown [] s

/-- A valid frame: a frame of another kind is disregarded once it has arrived (R167, R168). -/
def takeFrame (l : Link) (kind code : Byte) (payload : List Byte) (s : State) : State :=
  let s := frameArrived l s
  if kind = 0#8 then takeRequest l code payload s else s

/-- Hunt through octets for frames (R168): octets before a sync octet are discarded, after a discarded frame the hunt goes
on from the octet after its sync octet, and a frame not complete yet is kept. Each frame taken is an event of its own,
with the exceeded field as it leaves it (R112). -/
def receive (fuel : Nat) (l : Link) (octets : List Byte) (s : State) : State :=
  match fuel, octets with
  | 0, _ => s
  | _, [] => s
  | fuel + 1, o :: rest =>
    if o = 0xA5#8 then
      match parseFrame rest with
      | .bad => receive fuel l rest s
      | .incomplete => s.modLink l fun k => { k with rx := o :: rest }
      | .valid kind code payload after => receive fuel l after (settleExceeded (takeFrame l kind code payload s))
    else receive fuel l rest s

/-- UNKNOWN_REQUEST (R168). -/
def execUnknownRequest (l : Link) (code : Byte) (payload : List Byte) (s : State) :
    Host.Outcome State Fault Refusal :=
  .next (event (takeFrame l 0#8 code payload) s)

/-- NON_REQUEST_FRAME (R167, R168). -/
def execNonRequestFrame (l : Link) (kind code : Byte) (payload : List Byte) (s : State) :
    Host.Outcome State Fault Refusal :=
  .next (event (takeFrame l kind code payload) s)

/-- A frame that fails its length or its check, with the octets after its sync octet (R168; log 7). -/
def takeDiscarded (l : Link) (octets : List Byte) (s : State) : State :=
  let all := (s.links.get l).rx ++ 0xA5#8 :: octets
  receive all.length l all (s.modLink l fun k => { k with rx := [] })

/-- DISCARDED_FRAME (R168). -/
def execDiscardedFrame (l : Link) (octets : List Byte) (s : State) : Host.Outcome State Fault Refusal :=
  .next (event (takeDiscarded l octets) s)

end Sys2Proof.Machine
end

