-- ==== Sys2Proof/Machine/Timers.lean ====
section
/-! DEFINITION. The expiries of the part's own timers and the reports of the modules. A timer's expiry carries the time
forward to it; with the timer stopped it has no effect (log 3). -/

namespace Sys2Proof.Machine

/-- The expiry of a timer: at its expiry time, past those of other timers if need be, or now if that has passed
(log 3). -/
def timed (expiry : State → Option Nat) (f : State → State) (s : State) : State :=
  event (fun s =>
    match expiry s with
    | none => s
    | some e => f (advanceTo e s)) s

/-- A link's silence timer, while it is UP (R172). -/
def silenceExpiry (l : Link) (s : State) : Option Nat :=
  if (s.links.get l).up then (s.links.get l).silence else none

/-- A link is declared lost (R172, R173). At the loss of the shore link the berths give up the shore's authority in the
order A, B, C (log 8). -/
def loseLink (l : Link) (s : State) : State :=
  let s := s.modLink l fun k => { k with up := false, silence := none, outstanding := false }
  match l with
  | .shore => latchShore .shoreLinkLost (allBerths.foldl (fun s b => releaseShore b s) s)
  | .ship b => shipLinkLost b s
  | .tariff => latchShore .tariffLinkLost s

/-- LINK_LOSS (R172). -/
def execLinkLoss (l : Link) (s : State) : Host.Outcome State Fault Refusal :=
  .next (timed (silenceExpiry l) (loseLink l) s)

/-- A pending request expires 30 s after it was raised (R25). -/
def authorityExpiry (b : Berth) (s : State) : Option Nat :=
  (s.berth b).pendingSince.map fun t => t + 30 * ticksPerSecond

/-- The expiry's effect (R25). -/
def expireAuthority (b : Berth) (s : State) : State :=
  latchShip b .authorityRefused (s.modBerth b fun r => { r with pendingSince := none })

/-- AUTHORITY_EXPIRY (R25). -/
def execAuthorityExpiry (b : Berth) (s : State) : Host.Outcome State Fault Refusal :=
  .next (timed (authorityExpiry b) (expireAuthority b) s)

/-- The stage timer in a stage. -/
def stageExpiry (b : Berth) (g : Stage) (s : State) : Option Nat :=
  if (s.berth b).stage = g then (s.berth b).stageTimer else none

/-- ALLOCATION_TIMEOUT (R10). -/
def execAllocationTimeout (b : Berth) (s : State) : Host.Outcome State Fault Refusal :=
  .next (timed (stageExpiry b .allocating) (enterReleasing b) s)

/-- ENERGISE_TIMEOUT (R12). -/
def execEnergiseTimeout (b : Berth) (s : State) : Host.Outcome State Fault Refusal :=
  .next (timed (stageExpiry b .energising) (raiseCause b .energiseTimeout) s)

/-- The page wait timer, in COLLECTING (R41). -/
def pageWaitExpiry (b : Berth) (s : State) : Option Nat :=
  if (s.unit b).phase = .collecting then (s.unit b).pageWait else none

/-- PAGE_WAIT_EXPIRY (R41). -/
def execPageWaitExpiry (b : Berth) (s : State) : Host.Outcome State Fault Refusal :=
  .next (timed (pageWaitExpiry b) (takeAgreement b) s)

/-- The moment at which the charge start of the list's head is due (R49). -/
def chargeStartDue (s : State) : Option Nat :=
  s.pool.chargeList.head?.map fun m =>
    max (s.pool.plantLastStart + s.settings.tSpace * 100) ((s.module m).lastChargeStart + s.settings.tCycle * 1000) *
      ticksPerMs

/-- CHARGE_START (R49). -/
def execChargeStart (s : State) : Host.Outcome State Fault Refusal :=
  .next (timed chargeStartDue tryChargeStart s)

/-- The moment at which T_cycle passes for an unassigned DARK module (R57). -/
def cycleDue (m : ModuleId) (s : State) : Option Nat :=
  let x := s.module m
  if x.cycleOpen = true ∧ x.state = .dark ∧ x.berth = none then
    some ((x.lastChargeStart + s.settings.tCycle * 1000) * ticksPerMs)
  else none

/-- CYCLE_TIME_PASSED (R57): the pool is re-examined. -/
def execCycleTimePassed (m : ModuleId) (s : State) : Host.Outcome State Fault Refusal :=
  .next (timed (cycleDue m) (fun s => examineQueue (s.modModule m fun x => { x with cycleOpen := false })) s)

/-- A module's timer in a state. -/
def moduleExpiry (m : ModuleId) (x : ModuleState) (s : State) : Option Nat :=
  if (s.module m).state = x then (s.module m).timer else none

/-- CHARGE_TIMEOUT (R51). -/
def execChargeTimeout (m : ModuleId) (s : State) : Host.Outcome State Fault Refusal :=
  .next (timed (moduleExpiry m .charging) (enterFaulted m .chargeTimeout) s)

/-- IDLE_HOLD_EXPIRY (R52). -/
def execIdleHoldExpiry (m : ModuleId) (s : State) : Host.Outcome State Fault Refusal :=
  .next (timed (moduleExpiry m .ready) (enterDark m) s)

/-- DRAIN_EXPIRY (R54). -/
def execDrainExpiry (m : ModuleId) (s : State) : Host.Outcome State Fault Refusal :=
  .next (timed (moduleExpiry m .draining) (enterReady m) s)

/-- A Charged report (R50). -/
def takeCharged (m : ModuleId) (s : State) : State :=
  if (s.module m).state = .charging then
    match (s.module m).berth with
    | some b => checkComplete b (enterRunning m b s)
    | none => enterReady m s
  else s

/-- CHARGED_REPORT (R50). -/
def execChargedReport (m : ModuleId) (s : State) : Host.Outcome State Fault Refusal :=
  .next (event (takeCharged m) s)

/-- A Fault report (R55). -/
def takeFault (m : ModuleId) (code : Byte) (s : State) : State :=
  if (s.module m).state = .faulted then s else enterFaulted m (.moduleReported code) s

/-- FAULT_REPORT (R55). -/
def execFaultReport (m : ModuleId) (code : Byte) (s : State) : Host.Outcome State Fault Refusal :=
  .next (event (takeFault m code) s)

/-- The moment of a reference's next carry; a crossing that has already fallen is due now (R74). -/
def crossingDue (b : Berth) (s : State) : Option Nat :=
  let r := s.reference b
  if r.mode = .stopped then none
  else if 0 < r.owed then some s.now
  else if r.word = 0#32 then none
  else some (s.now + (2 ^ 32 - r.accumulator.toNat + r.word.toNat - 1) / r.word.toNat)

/-- REFERENCE_CROSSING (R74): the message goes out. -/
def execReferenceCrossing (b : Berth) (s : State) : Host.Outcome State Fault Refusal :=
  .next (timed (crossingDue b)
    (fun s => sendReference b (s.modReference b fun r => { r with owed := r.owed - 1 })) s)

/-- ZERO_CROSSING (R70). -/
def execZeroCrossing (side : BusSide) (b : Berth) (stamp : TimeStamp) (s : State) :
    Host.Outcome State Fault Refusal :=
  .next (event (fun s => takeEdge side b stamp (advanceToStamp stamp s)) s)

/-- DEAD_TIMER_EXPIRY (R72). -/
def execDeadTimerExpiry (side : BusSide) (b : Berth) (s : State) : Host.Outcome State Fault Refusal :=
  .next (timed (fun s => (s.input side b).deadTimer) (declareDead side b) s)

/-- SAMPLE_STROBE (R81). -/
def execSampleStrobe (s : State) : Host.Outcome State Fault Refusal :=
  .next (timed (fun s => some s.port.nextStrobe) takeStrobe s)

/-- BUS_FRAME (R82). -/
def execBusFrame (strobe outlet shipBus power check : List Byte) (s : State) : Host.Outcome State Fault Refusal :=
  .next (event (takeBusFrame (strobe ++ outlet ++ shipBus ++ power ++ check)) s)

/-- One second of the harbour clock (R151). -/
def takeClockAdvance (s : State) : State :=
  advanceClock { s with tariff := { s.tariff with nextAdvance := s.tariff.nextAdvance + ticksPerSecond } }

/-- CLOCK_ADVANCE (R151). -/
def execClockAdvance (s : State) : Host.Outcome State Fault Refusal :=
  .next (timed (fun s => some s.tariff.nextAdvance) takeClockAdvance s)

/-- SYNC_TIMEOUT (R97). -/
def execSyncTimeout (b : Berth) (s : State) : Host.Outcome State Fault Refusal :=
  .next (timed (fun s => (s.sync b).syncTimer) (syncTimerExpired b) s)

/-- CLOSE_FAILURE (R96). -/
def execCloseFailure (b : Berth) (s : State) : Host.Outcome State Fault Refusal :=
  .next (timed (fun s => (s.sync b).supervision) (closeFailed b) s)

/-- An advance of a ramp (R103), its next one 100 ms after the firing at `e`. -/
def rampAdvance (b : Berth) (s : State) : State :=
  let s := s.modRamp b fun r => { r with advance := r.advance.map fun e => e + 100 * ticksPerMs }
  let r := s.ramp b
  if r.suspended then s
  else
    let s := setSetpoint b r.stepped s
    let s :=
      if (s.ramp b).setpoint = (s.ramp b).target then
        s.modRamp b fun r => { r with state := .idle, advance := none }
      else s
    if 0 < r.setpoint then separationTestOrWait b s else s

/-- The advance timer of a MOVING ramp. -/
def advanceDue (b : Berth) (s : State) : Option Nat :=
  if (s.ramp b).state = .moving then (s.ramp b).advance else none

/-- RAMP_ADVANCE (R103). -/
def execRampAdvance (b : Berth) (s : State) : Host.Outcome State Fault Refusal :=
  .next (timed (advanceDue b) (rampAdvance b) s)

/-- The separation wait passes (R107). -/
def separationDelayed (b : Berth) (s : State) : State :=
  let s := s.modRamp b fun r => { r with separationWait := none }
  if (s.berth b).stage = .rampingOut then
    latchShip b .separationDelayed
      (latchShore (.separationDelayed b) (s.modRamp b fun r => { r with separationDelayed := true }))
  else s

/-- SEPARATION_WAIT_EXPIRY (R107). -/
def execSeparationWaitExpiry (b : Berth) (s : State) : Host.Outcome State Fault Refusal :=
  .next (timed (fun s => (s.ramp b).separationWait) (separationDelayed b) s)

/-- The overload timer expires (R119). -/
def overloadExpired (b : Berth) (s : State) : State :=
  raiseCause b .overload (s.modSec b fun c => { c with overloadTimer := none })

/-- OVERLOAD_EXPIRY (R119). -/
def execOverloadExpiry (b : Berth) (s : State) : Host.Outcome State Fault Refusal :=
  .next (timed (fun s => (s.sec b).overloadTimer) (overloadExpired b) s)

/-- The timer of a CLOSING supervision. -/
def closingDue (b : Berth) (s : State) : Option Nat :=
  match (s.sec b).supervision with
  | .closing e => some e
  | _ => none

/-- The timer of an OPENING supervision. -/
def openingDue (b : Berth) (s : State) : Option Nat :=
  match (s.sec b).supervision with
  | .opening e => some e
  | _ => none

/-- The outlet has not closed in 300 ms (R124): it is commanded open, the supervision becomes OPENING even while the
auxiliary reads OPEN, and the trip cause is raised (log 41). -/
def outletCloseExpired (b : Berth) (s : State) : State :=
  raiseCause b .outletBreaker
    (s.modSec b fun c => { c with outletCommand := .opened, supervision := .opening (s.inMs 200) })

/-- OUTLET_CLOSE_TIMEOUT (R124). -/
def execOutletCloseTimeout (b : Berth) (s : State) : Host.Outcome State Fault Refusal :=
  .next (timed (closingDue b) (outletCloseExpired b) s)

/-- OUTLET_OPEN_TIMEOUT (R125): the supervision ends and OUTLET_BREAKER is raised. -/
def execOutletOpenTimeout (b : Berth) (s : State) : Host.Outcome State Fault Refusal :=
  .next (timed (openingDue b)
    (fun s => raiseCause b .outletBreaker (s.modSec b fun c => { c with supervision := .idle })) s)

/-- COUPLER_OPEN_PULSE_EXPIRY (R126). -/
def execCouplerOpenPulseExpiry (b : Berth) (s : State) : Host.Outcome State Fault Refusal :=
  .next (timed (fun s => (s.sec b).couplerOpen) (openPulseExpired b) s)

/-- The due time of a WAITING schedule. -/
def waitingDue (b : Berth) (s : State) : Option Nat :=
  match (s.sec b).schedule with
  | .waiting due => some due
  | _ => none

/-- The end time of a RUNNING check. -/
def endingDue (b : Berth) (s : State) : Option Nat :=
  match (s.sec b).schedule with
  | .running ending _ => some ending
  | _ => none

/-- EARTH_CHECK_DUE (R130). -/
def execEarthCheckDue (b : Berth) (s : State) : Host.Outcome State Fault Refusal :=
  .next (timed (waitingDue b) (checkDue b) s)

/-- EARTH_CHECK_END (R131). -/
def execEarthCheckEnd (b : Berth) (s : State) : Host.Outcome State Fault Refusal :=
  .next (timed (endingDue b) (checkEnded b) s)

/-- GRACE_EXPIRY (R134). -/
def execGraceExpiry (b : Berth) (s : State) : Host.Outcome State Fault Refusal :=
  .next (timed (fun s => (s.sec b).graceTimer) (fun s => raiseCause b .shipLinkLoss (stopGrace b s)) s)

end Sys2Proof.Machine
end

