-- ==== Sys2Proof/Machine/Dispatch.lean ====
section
/-! DEFINITION. The meaning of each command, one arm per constructor of Instr. -/

namespace Sys2Proof.Machine

/-- What a command does to everything but the queue. -/
def exec (i : Instr) (s : State) : Host.Outcome State Fault Refusal :=
  match i with
    | .berthEnable link payload => Sys2Proof.Machine.execBerthEnable link payload s
    | .berthDisable link payload => Sys2Proof.Machine.execBerthDisable link payload s
    | .readBerth link payload => Sys2Proof.Machine.execReadBerth link payload s
    | .readOffer link payload => Sys2Proof.Machine.execReadOffer link payload s
    | .shipStatus link payload => Sys2Proof.Machine.execShipStatus link payload s
    | .requestPage link payload => Sys2Proof.Machine.execRequestPage link payload s
    | .continuationPage link payload => Sys2Proof.Machine.execContinuationPage link payload s
    | .requestAuthority link payload => Sys2Proof.Machine.execRequestAuthority link payload s
    | .releaseAuthority link payload => Sys2Proof.Machine.execReleaseAuthority link payload s
    | .seizeAuthority link payload => Sys2Proof.Machine.execSeizeAuthority link payload s
    | .connect link payload => Sys2Proof.Machine.execConnect link payload s
    | .rampStep link payload => Sys2Proof.Machine.execRampStep link payload s
    | .hold link payload => Sys2Proof.Machine.execHold link payload s
    | .depart link payload => Sys2Proof.Machine.execDepart link payload s
    | .abort link payload => Sys2Proof.Machine.execAbort link payload s
    | .forceSeparate link payload => Sys2Proof.Machine.execForceSeparate link payload s
    | .clearTrip link payload => Sys2Proof.Machine.execClearTrip link payload s
    | .clearModuleFault link payload => Sys2Proof.Machine.execClearModuleFault link payload s
    | .readModulePool link payload => Sys2Proof.Machine.execReadModulePool link payload s
    | .readMeasurement link payload => Sys2Proof.Machine.execReadMeasurement link payload s
    | .readSynchroniser link payload => Sys2Proof.Machine.execReadSynchroniser link payload s
    | .readRamp link payload => Sys2Proof.Machine.execReadRamp link payload s
    | .readBudget link payload => Sys2Proof.Machine.execReadBudget link payload s
    | .readProtection link payload => Sys2Proof.Machine.execReadProtection link payload s
    | .readMeter link payload => Sys2Proof.Machine.execReadMeter link payload s
    | .readTariff link payload => Sys2Proof.Machine.execReadTariff link payload s
    | .readRecordPool link payload => Sys2Proof.Machine.execReadRecordPool link payload s
    | .setClock link payload => Sys2Proof.Machine.execSetClock link payload s
    | .setBerthSettings link payload => Sys2Proof.Machine.execSetBerthSettings link payload s
    | .setPlantSetting link payload => Sys2Proof.Machine.execSetPlantSetting link payload s
    | .readSettings link payload => Sys2Proof.Machine.execReadSettings link payload s
    | .plantReset link payload => Sys2Proof.Machine.execPlantReset link payload s
    | .readNotices link payload => Sys2Proof.Machine.execReadNotices link payload s
    | .setNoticeMask link payload => Sys2Proof.Machine.execSetNoticeMask link payload s
    | .keepAlive link payload => Sys2Proof.Machine.execKeepAlive link payload s
    | .loadTariffTable link payload => Sys2Proof.Machine.execLoadTariffTable link payload s
    | .fetchRecord link payload => Sys2Proof.Machine.execFetchRecord link payload s
    | .releaseRecord link payload => Sys2Proof.Machine.execReleaseRecord link payload s
    | .fetchCopy link payload => Sys2Proof.Machine.execFetchCopy link payload s
    | .releaseCopy link payload => Sys2Proof.Machine.execReleaseCopy link payload s
    | .unknownRequest link code payload => Sys2Proof.Machine.execUnknownRequest link code payload s
    | .nonRequestFrame link kind code payload => Sys2Proof.Machine.execNonRequestFrame link kind code payload s
    | .discardedFrame link octets => Sys2Proof.Machine.execDiscardedFrame link octets s
    | .resetLine => Sys2Proof.Machine.execResetLine s
    | .powerOn => Sys2Proof.Machine.execPowerOn s
    | .linkLoss link => Sys2Proof.Machine.execLinkLoss link s
    | .authorityExpiry b => Sys2Proof.Machine.execAuthorityExpiry b s
    | .allocationTimeout b => Sys2Proof.Machine.execAllocationTimeout b s
    | .energiseTimeout b => Sys2Proof.Machine.execEnergiseTimeout b s
    | .pageWaitExpiry b => Sys2Proof.Machine.execPageWaitExpiry b s
    | .chargeStart => Sys2Proof.Machine.execChargeStart s
    | .cycleTimePassed m => Sys2Proof.Machine.execCycleTimePassed m s
    | .chargeTimeout m => Sys2Proof.Machine.execChargeTimeout m s
    | .idleHoldExpiry m => Sys2Proof.Machine.execIdleHoldExpiry m s
    | .drainExpiry m => Sys2Proof.Machine.execDrainExpiry m s
    | .chargedReport m => Sys2Proof.Machine.execChargedReport m s
    | .faultReport m code => Sys2Proof.Machine.execFaultReport m code s
    | .referenceCrossing b => Sys2Proof.Machine.execReferenceCrossing b s
    | .zeroCrossing side b stamp => Sys2Proof.Machine.execZeroCrossing side b stamp s
    | .deadTimerExpiry side b => Sys2Proof.Machine.execDeadTimerExpiry side b s
    | .sampleStrobe => Sys2Proof.Machine.execSampleStrobe s
    | .busFrame strobe outlet shipBus power check => Sys2Proof.Machine.execBusFrame strobe outlet shipBus power check s
    | .clockAdvance => Sys2Proof.Machine.execClockAdvance s
    | .syncTimeout b => Sys2Proof.Machine.execSyncTimeout b s
    | .closeFailure b => Sys2Proof.Machine.execCloseFailure b s
    | .rampAdvance b => Sys2Proof.Machine.execRampAdvance b s
    | .separationWaitExpiry b => Sys2Proof.Machine.execSeparationWaitExpiry b s
    | .overloadExpiry b => Sys2Proof.Machine.execOverloadExpiry b s
    | .outletCloseTimeout b => Sys2Proof.Machine.execOutletCloseTimeout b s
    | .outletOpenTimeout b => Sys2Proof.Machine.execOutletOpenTimeout b s
    | .couplerOpenPulseExpiry b => Sys2Proof.Machine.execCouplerOpenPulseExpiry b s
    | .earthCheckDue b => Sys2Proof.Machine.execEarthCheckDue b s
    | .earthCheckEnd b => Sys2Proof.Machine.execEarthCheckEnd b s
    | .graceExpiry b => Sys2Proof.Machine.execGraceExpiry b s
    | .emergencyStopChange b level => Sys2Proof.Machine.execEmergencyStopChange b level s
    | .plugPilotChange b level => Sys2Proof.Machine.execPlugPilotChange b level s
    | .outletAuxChange b level => Sys2Proof.Machine.execOutletAuxChange b level s
    | .couplerAuxChange b level => Sys2Proof.Machine.execCouplerAuxChange b level s
    | .earthResultChange b level => Sys2Proof.Machine.execEarthResultChange b level s
    | .resetLineAsserted => Sys2Proof.Machine.execResetLineAsserted s

end Sys2Proof.Machine
end

