-- ==== Sys2Proof/Machine/Due.lean ====
section
/-! DEFINITION. What the part does when no command waits: the expiry of a timer that is due, or one tick of the time base
(R69; log 2). -/

namespace Sys2Proof.Machine

/-- A timer's expiry as a command, if it is due. -/
def dueAt (s : State) (expiry : Option Nat) (c : Instr) : List Instr :=
  match expiry with
  | none => []
  | some e => if e ≤ s.now then [c] else []

/-- The due expiries of one berth. -/
def berthDue (s : State) (b : Berth) : List Instr :=
  dueAt s (authorityExpiry b s) (.authorityExpiry b) ++
    dueAt s (stageExpiry b .allocating s) (.allocationTimeout b) ++
    dueAt s (stageExpiry b .energising s) (.energiseTimeout b) ++
    dueAt s (pageWaitExpiry b s) (.pageWaitExpiry b) ++
    dueAt s (crossingDue b s) (.referenceCrossing b) ++
    dueAt s (s.input .ship b).deadTimer (.deadTimerExpiry .ship b) ++
    dueAt s (s.input .outlet b).deadTimer (.deadTimerExpiry .outlet b) ++
    dueAt s (s.sync b).syncTimer (.syncTimeout b) ++
    dueAt s (s.sync b).supervision (.closeFailure b) ++
    dueAt s (advanceDue b s) (.rampAdvance b) ++
    dueAt s (s.ramp b).separationWait (.separationWaitExpiry b) ++
    dueAt s (s.sec b).overloadTimer (.overloadExpiry b) ++
    dueAt s (closingDue b s) (.outletCloseTimeout b) ++
    dueAt s (openingDue b s) (.outletOpenTimeout b) ++
    dueAt s (s.sec b).couplerOpen (.couplerOpenPulseExpiry b) ++
    dueAt s (waitingDue b s) (.earthCheckDue b) ++
    dueAt s (endingDue b s) (.earthCheckEnd b) ++
    dueAt s (s.sec b).graceTimer (.graceExpiry b)

/-- The due expiries of one module. -/
def moduleDue (s : State) (m : ModuleId) : List Instr :=
  dueAt s (cycleDue m s) (.cycleTimePassed m) ++ dueAt s (moduleExpiry m .charging s) (.chargeTimeout m) ++
    dueAt s (moduleExpiry m .ready s) (.idleHoldExpiry m) ++ dueAt s (moduleExpiry m .draining s) (.drainExpiry m)

/-- Every expiry that is due. -/
def dueEvents (s : State) : List Instr :=
  dueAt s (silenceExpiry .shore s) (.linkLoss .shore) ++
    (allBerths.flatMap fun b => dueAt s (silenceExpiry (.ship b) s) (.linkLoss (.ship b))) ++
    dueAt s (silenceExpiry .tariff s) (.linkLoss .tariff) ++ allBerths.flatMap (berthDue s) ++
    dueAt s (chargeStartDue s) .chargeStart ++ allModules.flatMap (moduleDue s) ++
    dueAt s (some s.port.nextStrobe) .sampleStrobe ++ dueAt s (some s.tariff.nextAdvance) .clockAdvance

/-- The empty queue (log 2): a due expiry becomes the waiting command, which of several a free value (log 9); with none
due one tick passes; while the RESET line is held nothing happens. -/
def idle (s : State) : State :=
  if s.resetHeld then s
  else
    match dueEvents s with
    | [] => advance 1 s
    | [c] => { s with pending := [c] }
    | c :: rest =>
      { s with pending := [(c :: rest).getD (Config.dueChoice s.freeCount % (c :: rest).length) c],
               freeCount := s.freeCount + 1 }

end Sys2Proof.Machine
end

