-- ==== Sys2Proof/Safety.lean ====
section
/-! DEFINITION. What the statements are made of: a link that is heard, the forms in which a request names a berth, and
the invariants of the machine. -/

namespace Sys2Proof.Machine

/-- The exceeded field tells the truth at the end of every event (R112; log 15). -/
def State.exceededHonest (s : State) : Prop :=
  s.budget.exceeded = decide (s.settings.importLimit < s.reserved)

/-- The RESET line is released and the exceeded field tells the truth. -/
def State.quiet (s : State) : Prop :=
  s.resetHeld = false ∧ s.exceededHonest

/-- A quiet part with a link UP. -/
def State.hears (s : State) (l : Link) : Prop :=
  s.quiet ∧ (s.links.get l).up = true

/-- The state as a valid frame on an UP link finds it: nothing sent yet, the silence timer restarted (R168, R172). -/
def heard (l : Link) (s : State) : State :=
  ({ s with sent := [] } : State).modLink l fun k =>
    { k with silence := some (s.inSeconds (silenceSeconds l)), up := true, rx := [] }

/-- The state as an event other than a frame finds it: nothing sent yet (log 6). -/
def cleared (s : State) : State := { s with sent := [] }

/-- The state as a timer's expiry at a moment finds it: the time carried forward, nothing sent yet (logs 3, 6). -/
def atExpiry (moment : Nat) (s : State) : State := advanceTo moment (cleared s)

/-- The links on which a request for a berth comes (R169): the shore link, and the berth's own ship link. -/
def speaksFor (l : Link) (b : Berth) : Prop :=
  l = .shore ∨ l = .ship b

/-- The berth octet of a request: on the shore link and the tariff link, not on a ship link (R170). -/
def berthField (l : Link) (b : Berth) : List Byte :=
  match l with
  | .ship _ => []
  | _ => [berthOctet b]

/-- A quiet part that hears a request for a berth in service on a link that speaks for it (R5, R169). -/
def State.asks (s : State) (l : Link) (b : Berth) : Prop :=
  s.hears l ∧ speaksFor l b ∧ (s.berth b).inService = true

/-- As `asks`, with the sender holding the berth's authority (R23). -/
def State.commands (s : State) (l : Link) (b : Berth) : Prop :=
  s.asks l b ∧ (s.berth b).holder = requester l

/-- The request codes that name a berth (R169, R170). -/
def addressed (code : Nat) : Bool :=
  decide (code ≤ 0x11) || [0x15, 0x16, 0x18, 0x19, 0x1D, 0x27, 0x28].contains code

/-- The stages, and the conditions R5's table adds to them, in which a berth accepts the six requests that need
authority, by code. -/
def BerthRecord.accepts (code : Nat) (r : BerthRecord) : Bool :=
  match code with
  | 0x0B => r.mayConnect
  | 0x0C | 0x0D => r.stage.mayStep
  | 0x0E => r.mayDepart
  | 0x0F => r.stage.mayAbort
  | 0x10 => r.stage.mayForce
  | _ => false

/-- A reply with DONE. -/
def doneReply (l : Link) (code : Byte) (items : List Byte) : Sent := .reply l code .done none items

/-- A refusal. -/
def refusal (l : Link) (code : Byte) (reason : Reason) : Sent := .reply l code .refused (some reason) []

/-- Is a shore flag set? -/
def State.shoreSet (s : State) (f : ShoreFlag) : Bool :=
  flagSet (s.links.get .shore).flags (shoreFlagIndex f)

/-- Is a flag of a berth's ship link set? -/
def State.shipSet (s : State) (b : Berth) (f : ShipFlag) : Bool :=
  flagSet (s.links.get (.ship b)).flags (shipFlagIndex f)

/-- Is a tariff flag set? -/
def State.tariffSet (s : State) (f : TariffFlag) : Bool :=
  flagSet (s.links.get .tariff).flags (tariffFlagIndex f)

/-- The commands that still act while the RESET line is held: the line's own and power-on, and the changes of the input
levels (R177, log 5). -/
def actsWhileHeld (c : Instr) : Bool :=
  match c with
  | .resetLine | .powerOn | .resetLineAsserted | .emergencyStopChange _ _ | .plugPilotChange _ _
  | .outletAuxChange _ _ | .couplerAuxChange _ _ | .earthResultChange _ _ => true
  | _ => false

/-- The five input levels of every berth are those they were (R121). -/
def sameLevels (s t : State) : Prop :=
  ∀ b, (t.sec b).emergencyStop = (s.sec b).emergencyStop ∧ (t.sec b).plugPilot = (s.sec b).plugPilot ∧
    (t.sec b).outletAux = (s.sec b).outletAux ∧ (t.sec b).couplerAux = (s.sec b).couplerAux ∧
    (t.sec b).earthResult = (s.sec b).earthResult

/-- What an event that changes one berth's stage leaves alone: time, sample port, tariff, settings, the free choices'
numbering, the waiting commands, the links' states, every input level; and of the other berths the stage, the authority,
the agreement, the trip causes, the ship status, the hold, the separation cause, the exchange, the reference, the
synchroniser, the earth-path schedule. -/
def leavesOthers (b : Berth) (s t : State) : Prop :=
  t.now = s.now ∧ t.resetHeld = s.resetHeld ∧ t.port = s.port ∧ t.tariff = s.tariff ∧ t.settings = s.settings ∧
    t.freeCount = s.freeCount ∧ t.pending = s.pending ∧ (∀ l, (t.links.get l).up = (s.links.get l).up) ∧
    sameLevels s t ∧
    ∀ c, c ≠ b →
      (t.berth c).stage = (s.berth c).stage ∧ (t.berth c).holder = (s.berth c).holder ∧
      (t.berth c).pendingSince = (s.berth c).pendingSince ∧ (t.berth c).agreement = (s.berth c).agreement ∧
      (t.berth c).causes = (s.berth c).causes ∧ (t.berth c).status = (s.berth c).status ∧
      (t.berth c).inService = (s.berth c).inService ∧ (t.berth c).linkLost = (s.berth c).linkLost ∧
      (t.berth c).syncHold = (s.berth c).syncHold ∧ (t.berth c).separationCause = (s.berth c).separationCause ∧
      (t.berth c).qualification = (s.berth c).qualification ∧ t.unit c = s.unit c ∧ t.reference c = s.reference c ∧
      t.sync c = s.sync c ∧ (t.sec c).deferrals = (s.sec c).deferrals ∧ (t.sec c).schedule = (s.sec c).schedule

/-- An Interval Record worked out from a channel and its interval (R143). -/
def isRecordOf (b : Berth) (m : Meter) (i : Interval) (r : IntervalRecord) : Prop :=
  r.berth = b ∧ r.contract = m.terms.bind ConnectionTerms.contract ∧ r.start = i.start ∧ r.length = i.elapsed ∧
    r.band = i.band ∧ r.delivered = m.delivered / 360000 ∧ r.reverse = m.reverse / 360000 ∧
    r.charge = r.delivered * i.rate ∧ (0 < i.elapsed → r.demand = r.delivered * 3600 / (i.elapsed * 1000)) ∧
    r.marks = i.marks ∧ r.merged = i.merged

/-- The connection totals with a closed interval counted in; its demand enters the peak unless it is partial or stretched
(R143). -/
def countsIn (r : IntervalRecord) (before after : Totals) : Prop :=
  after.delivered = before.delivered + r.delivered ∧ after.reverse = before.reverse + r.reverse ∧
    after.charges = before.charges + r.charge ∧ after.intervals = before.intervals + 1 ∧
    after.peak =
      if r.marks.partialStart || r.marks.partialEnd || r.marks.stretched then before.peak else max before.peak r.demand

/-- A channel whose interval has been closed: whole watt-hours have left its accumulators for its totals (R143). -/
def closedInto (r : IntervalRecord) (before after : Meter) : Prop :=
  after.delivered = before.delivered % 360000 ∧ after.reverse = before.reverse % 360000 ∧
    countsIn r before.totals after.totals

/-- One Interval Record has been written: it has the next number, the lowest-numbered free slot and a count of 2, and it
stands at the tail of both queues (R156, R157, R161, R163). -/
def writesInterval (b : Berth) (r : IntervalRecord) (s t : State) : Prop :=
  ∀ slot rest, s.records.freeSlots = slot :: rest →
    let ref : RecordRef := { number := s.records.nextNumber, first := slot, second := none }
    t.records.slots.get slot = .used s.records.nextNumber (.interval r) 2 ∧
      (∀ i, i ≠ slot → t.records.slots.get i = s.records.slots.get i) ∧
      t.records.nextNumber = s.records.nextNumber + 1#16 ∧ t.records.tariffQueue = s.records.tariffQueue ++ [ref] ∧
      t.records.copyQueues.get b = s.records.copyQueues.get b ++ [ref] ∧ t.records.held = s.records.held

/-- A slot once some records have each given up one reference to it, with no record held: its count has fallen by the
number of times they name it, and it is FREE where that is all (R155, R159). -/
def lowered (records : List RecordRef) (i : SlotId) (x : Slot) : Slot :=
  let n := (records.flatMap RecordRef.slots).count i
  match x with
  | .used number record count => if n = 0 then x else if count ≤ n then .free else .used number record (count - n)
  | _ => x

/-- As `writesInterval`, for a berth whose copy queue holds 8 records: the oldest is dropped and its slots lowered before
the new record joins (R163). -/
def writesIntervalDropping (b : Berth) (r : IntervalRecord) (s t : State) : Prop :=
  ∀ slot rest oldest others, s.records.freeSlots = slot :: rest → s.records.copyQueues.get b = oldest :: others →
    others.length = 7 → slot ∉ oldest.slots → s.records.held = [] →
    let ref : RecordRef := { number := s.records.nextNumber, first := slot, second := none }
    t.records.slots.get slot = .used s.records.nextNumber (.interval r) 2 ∧
      (∀ i, i ≠ slot → t.records.slots.get i = lowered [oldest] i (s.records.slots.get i)) ∧
      t.records.nextNumber = s.records.nextNumber + 1#16 ∧ t.records.tariffQueue = s.records.tariffQueue ++ [ref] ∧
      t.records.copyQueues.get b = others ++ [ref] ∧
      t.records.missedCopies.get b = min 255 (s.records.missedCopies.get b + 1) ∧ t.records.held = []

/-- The notices of a record that joins the tariff queue and a berth's copy queue: a queue that was empty and armed latches
its flag and is armed no more, one that was not is left as armed as it was, its flag too (R161, R163). -/
def announcesRecord (b : Berth) (s t : State) : Prop :=
  let first := s.records.tariffQueue.isEmpty && s.records.tariffArmed
  let firstCopy := (s.records.copyQueues.get b).isEmpty && s.records.copyArmed.get b
  t.tariffSet .recordsAvailable = (s.tariffSet .recordsAvailable || first) ∧
    t.records.tariffArmed = (s.records.tariffArmed && !first) ∧
    t.shipSet b .copiesAvailable = (s.shipSet b .copiesAvailable || firstCopy) ∧
    t.records.copyArmed.get b = (s.records.copyArmed.get b && !firstCopy)

/-- The pool-low condition once the free count has changed: set below 4 free slots, with POOL_LOW on the shore link and the
tariff link, and cleared from 8 on (R160). -/
def poolLowFollows (s t : State) : Prop :=
  let free := t.records.freeSlotCount
  let falls := !s.records.poolLow && decide (free < 4)
  t.records.poolLow = (falls || s.records.poolLow && decide (free < 8)) ∧
    t.shoreSet .poolLow = (s.shoreSet .poolLow || falls) ∧ t.tariffSet .poolLow = (s.tariffSet .poolLow || falls)

/-- The Import Budget once its headroom under a limit has been offered to the waiting list (R115): the head receives the
smaller of its outstanding amount and the headroom; satisfied, it is removed and the next is served; not satisfied, it
stays and the offer ends. -/
def served (limit : Nat) (held : PerBerth Nat) (waiting : List WaitEntry) : PerBerth Nat × List WaitEntry :=
  match waiting with
  | [] => (held, [])
  | e :: rest =>
    let after := held.get e.berth + min (e.wanted - held.get e.berth) (limit - (held.a + held.b + held.c))
    if e.wanted ≤ after then served limit (held.set e.berth after) rest else (held.set e.berth after, e :: rest)

/-- The Import Budget once a berth's need stands against its reservation (R113, R114): a need above it receives the
smaller of the amount asked and the headroom, and where that is less the berth joins the tail with its need; a need at or
below it lowers it to the need. What headroom there then is goes to the waiting list. -/
def asked (limit : Nat) (b : Berth) (need : Nat) (held : PerBerth Nat) (waiting : List WaitEntry) :
    PerBerth Nat × List WaitEntry :=
  let given := min (need - held.get b) (limit - (held.a + held.b + held.c))
  if need ≤ held.get b then served limit (held.set b need) waiting
  else
    served limit (held.set b (held.get b + given))
      (waiting ++ if given < need - held.get b then [{ berth := b, wanted := need }] else [])

/-- The Import Budget once a berth's entry, if it has one, has been removed from the waiting list (R116). -/
def withoutEntry (b : Berth) (s : State) : PerBerth Nat × List WaitEntry :=
  if s.waitEntry b = none then (s.budget.reservations, s.budget.waiting)
  else served s.settings.importLimit s.budget.reservations (s.budget.waiting.filter fun e => decide (e.berth ≠ b))

/-- The Import Budget once a berth's need has fallen, outside SHORE_CARRYING (R114): its reservation falls to the need, a
waiting entry's wanted amount too, the entry being removed where the reservation satisfies it; what headroom there then is
goes to the waiting list. -/
def lowersTo (b : Berth) (need : Nat) (s : State) : PerBerth Nat × List WaitEntry :=
  let kept := min need (s.reservation b)
  served s.settings.importLimit (s.budget.reservations.set b kept)
    (s.budget.waiting.flatMap fun e =>
      if e.berth = b then if min e.wanted need ≤ kept then [] else [{ e with wanted := min e.wanted need }] else [e])

/-- Each RUNNING module of a berth carries the share of its setpoint that falls to its place among them, lowest-numbered
first (R67). -/
def sharesFollow (b : Berth) (s : State) : Prop :=
  ∀ place m, (s.runningOf b)[place]? = some m →
    (s.module m).share = shareAt (s.ramp b).setpoint (s.runningOf b).length place

/-- What a berth gives up at its entry to SEPARATING, RELEASING or TRIPPED (R18, R19, R21, R63, R110): its queue entry, its
waiting place, its reservation, its ramp but for the rate, and the grants of its modules that are not RUNNING. -/
def givesUpGrants (b : Berth) (s t : State) : Prop :=
  t.hasEntry b = false ∧ t.waitEntry b = none ∧ t.reservation b = 0 ∧ (t.ramp b).setpoint = 0 ∧
    (t.ramp b).wanted = 0 ∧ (t.ramp b).target = 0 ∧ (t.ramp b).rate = (s.ramp b).rate ∧ (t.ramp b).state = .idle ∧
    (t.ramp b).advance = none ∧ (t.ramp b).separationWait = none ∧ (t.ramp b).separationDelayed = false ∧
    (∀ m, (s.module m).state = .charging → (s.module m).berth = some b →
      (t.module m).state = .charging ∧ (t.module m).berth = none) ∧
    ∀ m ∈ s.pool.chargeList, (s.module m).berth = some b → (t.module m).berth ≠ some b

/-- What a berth gives up at its entry to RELEASING or TRIPPED (R19, R21, R63): its grants, and its RUNNING modules, which
are sent DRAIN and enter DRAINING without a share. -/
def givesUpModules (b : Berth) (s t : State) : Prop :=
  let running := (s.runningOf b).filter fun m => decide (m ∉ s.pool.chargeList)
  givesUpGrants b s t ∧ (t.berth b).moduleCount = (s.berth b).moduleCount - running.length ∧
    ∀ m ∈ running, (t.module m).state = .draining ∧ (t.module m).berth = none ∧ (t.module m).share = 0 ∧
      (t.module m).timer = some (s.now + 5 * 10000000) ∧ .drain m ∈ t.sent

/-- A berth keeps its RUNNING modules at its entry to SEPARATING, their shares at 0 (R18, R63). -/
def keepsRunning (b : Berth) (s t : State) : Prop :=
  (t.berth b).moduleCount = (s.berth b).moduleCount ∧
    ∀ m ∈ s.runningOf b, m ∉ s.pool.chargeList →
      t.module m = { s.module m with share := if (s.ramp b).setpoint = 0 then (s.module m).share else 0 }

/-- The current interval of a connection as its end closes it: marked PARTIAL_END, and TRIP where a trip ends it (R139,
R145). -/
def Interval.final (i : Interval) (cause : EndCause) : Interval :=
  { i with marks := { i.marks with partialEnd := true, trip := i.marks.trip || cause.isTrip } }

/-- What the end of an open connection writes where a slot is free, two are reserved for the berth and its copy queue has
room: the final interval's record in the lowest-numbered free slot, and then the Connection Summary with its end cause in
the two reserved slots; both records stand at the tail of both queues (R139, R145, R146, R156). -/
def writesConnectionEnd (b : Berth) (cause : EndCause) (s t : State) : Prop :=
  ∀ i x slot rest low high, (s.meter b).connected = true → (s.meter b).interval = some i →
    (s.meter b).terms = some x → s.records.freeSlots = slot :: rest → s.records.reservedSlots b = [low, high] →
    (s.records.copyQueues.get b).length ≤ 6 →
    let n := s.records.nextNumber
    let first : RecordRef := { number := n, first := slot, second := none }
    let last : RecordRef := { number := n + 1#16, first := low, second := some high }
    ∃ r u, t.records.slots.get slot = .used n (.interval r) 2 ∧
      t.records.slots.get low = .used (n + 1#16) (.summary u) 2 ∧
      t.records.slots.get high = .used (n + 1#16) (.summary u) 2 ∧ t.records.nextNumber = n + 2#16 ∧
      t.records.tariffQueue = s.records.tariffQueue ++ [first, last] ∧
      t.records.copyQueues.get b = s.records.copyQueues.get b ++ [first, last] ∧ t.records.reservedSlots b = [] ∧
      (t.berth b).summaryReserved = false ∧
      isRecordOf b (s.meter b) (i.final cause) r ∧
      countsIn r (s.meter b).totals (t.meter b).totals ∧ u.berth = b ∧ u.terms = x ∧
      u.separatedAt = s.tariff.clock ∧ u.delivered = (t.meter b).totals.delivered ∧
      u.reverse = (t.meter b).totals.reverse ∧ u.deliveredResidue = (s.meter b).delivered % 360000 ∧
      u.reverseResidue = (s.meter b).reverse % 360000 ∧
      u.totalCharge = (t.meter b).totals.charges + x.charge * 1000000 ∧ u.peak = (t.meter b).totals.peak ∧
      u.intervals = (t.meter b).totals.intervals ∧ u.endCause = cause

/-- The final interval's record is held by its channel where no slot is free and the copy queue has room for the summary
(R145). -/
def holdsFinalInterval (b : Berth) (cause : EndCause) (s t : State) : Prop :=
  ∀ i, (s.meter b).connected = true → (s.meter b).interval = some i → s.records.freeSlots = [] →
    (s.records.copyQueues.get b).length < 8 →
    t.records.held = s.records.held ++ [{ berth := b, copyWanted := true }] ∧
      ∃ r, (t.meter b).held = some r ∧ isRecordOf b (s.meter b) (i.final cause) r

/-- A berth's settings lie in the ranges of R175. -/
def BerthSettings.inRange (g : BerthSettings) : Bool :=
  decide (1 ≤ g.moduleLimit ∧ g.moduleLimit ≤ 12) && decide (50 ≤ g.maxRate ∧ g.maxRate ≤ 2000) &&
    decide (10 ≤ g.window ∧ g.window ≤ 100) && decide (-200 ≤ g.slipMin ∧ g.slipMin ≤ 200) &&
    decide (20 ≤ g.slipMax ∧ g.slipMax ≤ 500) && decide (10 ≤ g.targetSlip ∧ g.targetSlip ≤ 300) &&
    decide (1 ≤ g.qualifyCount ∧ g.qualifyCount ≤ 8) && decide (1 ≤ g.voltTolerance ∧ g.voltTolerance ≤ 10) &&
    decide (40 ≤ g.closingTime ∧ g.closingTime ≤ 250) && decide (30 ≤ g.syncTimeout ∧ g.syncTimeout ≤ 600)

/-- The settings lie in the ranges of R175 and R176. -/
def Settings.inRange (g : Settings) : Bool :=
  (allBerths.all fun b => (g.berths.get b).inRange) &&
    decide (500 ≤ g.rating ∧ g.rating ≤ 4000 ∧ g.rating % 100 = 0) && lengthAllowed g.intervalLength &&
    decide (5 ≤ g.tSpace ∧ g.tSpace ≤ 50) && decide (10 ≤ g.tCycle ∧ g.tCycle ≤ 300) &&
    decide (1000 ≤ g.importLimit ∧ g.importLimit ≤ 60000) && decide (50 ≤ g.threshold ∧ g.threshold ≤ 1000)

/-- Law 9 (R27): the authority holder is NONE in VACANT and in TRIPPED. -/
def State.authorityLawful (s : State) : Prop :=
  ∀ b, (s.berth b).stage = .vacant ∨ (s.berth b).stage = .tripped → (s.berth b).holder = .nobody

/-- Law 10 (R130): a berth's deferral count never exceeds 4. -/
def State.deferralsLawful (s : State) : Prop :=
  ∀ b, (s.sec b).deferrals ≤ 4

end Sys2Proof.Machine
end

