-- ==== Sys2Proof/Certificates/Slice0/Obligations.lean ====
section
/-! DEFINITION. The statements for the provers. Every command has a statement whose conclusion is that exec answers a
next state; `heard l s`, `cleared s` and `atExpiry e s` are the state as a frame, another event or a timer's expiry finds
it, so a conclusion about those says what the command itself changes. -/

open Sys2Proof Sys2Proof.Machine

/-- A step takes the command at the front of the queue and runs it with the rest waiting. -/
def Obligations.StepTakesTheFront : Prop :=
  ∀ (c : Instr) (rest : List Instr) (s : State),
    step { s with pending := c :: rest } = exec c { s with pending := rest }

/-- On an empty queue one due expiry becomes the waiting command, and with none due one tick passes (the model's choice,
logs 2 and 9); while the RESET line is held nothing happens.

R69, R74: at every tick the time base counts one, a running reference's word is added to its accumulator, and a
carry past 2^32 is a reference crossing. -/
def Obligations.IdleStepTakesADueExpiryOrTicks : Prop :=
  (∀ s : State, s.pending = [] →
     (s.resetHeld = true → step s = .next s) ∧
     (s.resetHeld = false → dueEvents s = [] → step s = .next (advance 1 s)) ∧
     (s.resetHeld = false → dueEvents s ≠ [] →
       ∃ c n, c ∈ dueEvents s ∧ step s = .next { s with pending := [c], freeCount := n })) ∧
  (∀ s : State, s.pending = [] → s.resetHeld = false → dueEvents s = [] →
     ∃ t, step s = .next t ∧ t = { s with now := s.now + 1, references := t.references } ∧
       t.timeBase = s.timeBase + 1#32 ∧
       ∀ b,
         ((s.reference b).mode = .stopped → t.reference b = s.reference b) ∧
         ((s.reference b).mode ≠ .stopped →
           (t.reference b).accumulator = (s.reference b).accumulator + (s.reference b).word ∧
           (t.reference b).word = (s.reference b).word ∧ (t.reference b).mode = (s.reference b).mode ∧
           (t.reference b).owed = (s.reference b).owed +
             if 2 ^ 32 ≤ (s.reference b).accumulator.toNat + (s.reference b).word.toNat then 1 else 0))

/-- The values R1, R28, R46, R70, R74, R81, R85, R101, R112, R121, R137, R147, R154, R171, R172 and R174 give for the
RESET line. -/
def Obligations.ResetStateHoldsTheResetValues : Prop :=
  let s := State.reset
  s.pending = [] ∧ s.resetHeld = false ∧ s.settings = Settings.default ∧
    (∀ b, (s.berth b).inService = false ∧ (s.berth b).stage = .vacant ∧ (s.berth b).holder = .nobody ∧
      (s.berth b).pendingSince = none ∧ (s.berth b).agreement = none ∧ (s.berth b).causes = [] ∧
      (s.berth b).status = none ∧ (s.berth b).moduleCount = 0 ∧ (s.berth b).summaryReserved = false ∧
      (s.berth b).linkLost = true ∧ (s.berth b).syncHold = false ∧ (s.berth b).separationCause = none ∧
      (s.berth b).stageTimer = none ∧ (s.berth b).qualification = none) ∧
    (∀ b, (s.unit b).phase = .idle ∧ (s.unit b).offer = none ∧ (s.unit b).request = none ∧
      (s.unit b).resolution = none ∧ (s.unit b).terms = none ∧ (s.unit b).pages = [] ∧ (s.unit b).lastMark = none ∧
      (s.unit b).lastReply = none ∧ (s.unit b).pageWait = none) ∧
    (∀ m, (s.module m).state = .dark ∧ (s.module m).berth = none ∧ (s.module m).share = 0 ∧
      (s.module m).fault = none ∧ (s.module m).timer = none ∧ (s.module m).lastChargeStart = s.elapsedMs ∧
      (s.module m).entryTime = s.elapsedMs) ∧
    s.pool.queue = [] ∧ s.pool.chargeList = [] ∧ s.pool.plantLastStart = s.elapsedMs ∧ s.elapsedMs = 0 ∧
    s.timeBase = 0#32 ∧
    (∀ side b, (s.input side b).latest = none ∧ (s.input side b).previous = none ∧ (s.input side b).period = none ∧
      (s.input side b).valid = false ∧ (s.input side b).frequency = none ∧ (s.input side b).live = false ∧
      (s.input side b).deadTimer = none) ∧
    (∀ b, (s.reference b).mode = .stopped ∧ (s.reference b).accumulator = 0#32 ∧ (s.reference b).word = 0#32 ∧
      (s.reference b).commanded = none ∧ (s.reference b).clamped = false) ∧
    s.port.strobeCount = 0#8 ∧ s.port.awaited = none ∧ s.port.taken = false ∧ s.port.missing = 0 ∧
    s.port.badFrames = 0 ∧ s.port.lateFrames = 0 ∧ s.port.duplicates = 0 ∧ s.port.nextStrobe = 100000 ∧
    (∀ b, s.port.last.get b = none ∧ s.port.age.get b = 0) ∧
    (∀ b, (s.sync b).running = false ∧ (s.sync b).count = 0 ∧ (s.sync b).inFlight = false ∧ (s.sync b).failures = 0 ∧
      (s.sync b).earthCheck = false ∧ (s.sync b).last = none ∧ (s.sync b).syncTimer = none ∧
      (s.sync b).heldTimeout = false ∧ (s.sync b).supervision = none ∧ (s.sync b).closeLine = false) ∧
    (∀ b, (s.ramp b).setpoint = 0 ∧ (s.ramp b).wanted = 0 ∧ (s.ramp b).target = 0 ∧ (s.ramp b).rate = 50 ∧
      (s.ramp b).state = .idle ∧ (s.ramp b).capacity = 0 ∧ (s.ramp b).suspended = false ∧ s.reservation b = 0 ∧
      (s.ramp b).advance = none ∧ (s.ramp b).separationWait = none ∧ (s.ramp b).separationDelayed = false) ∧
    s.budget.waiting = [] ∧ s.budget.exceeded = false ∧
    (∀ b, (s.sec b).outletCommand = .opened ∧ (s.sec b).supervision = .idle ∧ (s.sec b).couplerOpen = none ∧
      (s.sec b).schedule = .inactive ∧ (s.sec b).deferrals = 0 ∧ (s.sec b).lastCheck = none ∧
      (s.sec b).graceTimer = none ∧ (s.sec b).flags = ChangeFlags.clear ∧ (s.sec b).checkRequest = false ∧
      (s.sec b).overCapacity = false ∧ (s.sec b).overloadTimer = none) ∧
    (∀ b, (s.meter b).connected = false ∧ (s.meter b).delivered = 0 ∧ (s.meter b).reverse = 0 ∧
      (s.meter b).interval = none ∧ (s.meter b).missed = 0 ∧ (s.meter b).held = none ∧ (s.meter b).terms = none ∧
      (s.meter b).totals = { delivered := 0, reverse := 0, charges := 0, intervals := 0, peak := 0 }) ∧
    s.tariff.active = none ∧ s.tariff.pending = none ∧ s.tariff.clock = 0#32 ∧ s.tariff.notSet = true ∧
    s.records.freeSlotCount = 48 ∧ s.records.nextNumber = 0#16 ∧ s.records.tariffQueue = [] ∧ s.records.held = [] ∧
    s.records.poolLow = false ∧ s.records.tariffArmed = true ∧
    (∀ b, s.records.copyQueues.get b = [] ∧ s.records.missedCopies.get b = 0 ∧ s.records.copyArmed.get b = true) ∧
    ∀ l, (s.links.get l).up = false ∧ (s.links.get l).silence = none ∧ (s.links.get l).flags = 0#64 ∧
      (s.links.get l).mask = Links.carried l ∧ (s.links.get l).outstanding = false

/-- R177, R46, R121: from any state the release of the RESET line, and power-on, give every block its reset values, each
Protection section among them but for its input levels, send DISCHARGE to every module, and raise at the first reading
what an open emergency-stop loop or a closed outlet raises; a link that nothing latches a flag on has none set. The
model's choices: the DISCHARGE messages go lowest-numbered module first (log 32), and a berth that reads both causes has
EMERGENCY_STOP first (log 19). -/
def Obligations.ResetLineReturnsEveryBlockToReset : Prop :=
  ∀ s : State, ∃ t, exec .resetLine s = .next t ∧ exec .powerOn s = .next t ∧
    t.now = 0 ∧ t.resetHeld = false ∧ t.pending = s.pending ∧ t.freeCount = s.freeCount ∧
    t.sent = allModules.map Sent.discharge ∧
    t.settings = State.reset.settings ∧ t.tariff = State.reset.tariff ∧ t.records = State.reset.records ∧
    t.port = State.reset.port ∧ t.capture = State.reset.capture ∧ t.meters = State.reset.meters ∧
    t.pool = State.reset.pool ∧ t.budget = State.reset.budget ∧ t.references = State.reset.references ∧
    t.units = State.reset.units ∧ t.syncs = State.reset.syncs ∧ t.ramps = State.reset.ramps ∧
    (∀ l, (t.links.get l).up = false ∧ (t.links.get l).silence = none ∧
      (t.links.get l).mask = Links.carried l ∧ (t.links.get l).outstanding = false) ∧
    sameLevels s t ∧ (t.links.get .tariff).flags = 0#64 ∧
    ((∀ b, (s.sec b).emergencyStop = .closed ∧ (s.sec b).outletAux = .opened) → (t.links.get .shore).flags = 0#64) ∧
    ∀ b,
      ((s.sec b).emergencyStop = .closed ∧ (s.sec b).outletAux = .opened →
        t.berth b = State.reset.berth b ∧ t.shoreSet (.trip b) = false ∧ t.sec b = (s.sec b).afterReset ∧
        (t.links.get (.ship b)).flags = 0#64) ∧
      ((s.sec b).emergencyStop = .opened ∨ (s.sec b).outletAux = .closed →
        (t.berth b).stage = .tripped ∧ (t.berth b).holder = .nobody ∧ (t.sec b).outletCommand = .opened ∧
        t.sec b = { (s.sec b).afterReset with
          couplerOpen := if (s.sec b).couplerAux = .closed then some (200 * 10000) else none } ∧
        t.shoreSet (.trip b) = true ∧ t.shipSet b .trip = true ∧
        (t.berth b).causes =
          (if (s.sec b).emergencyStop = .opened then [TripCause.emergencyStop] else []) ++
            if (s.sec b).outletAux = .closed then [TripCause.outletBreaker] else [])

/-- R177: the RESET line taken active holds the outlets commanded open, releases the coupler and check-request lines and
sends nothing; nothing else changes.

R177 (and log 5, the model's reading): while the RESET line is held every command but the line's own and the input
changes is disregarded and nothing is sent; an input change moves its level and does nothing else. -/
def Obligations.ResetLineHeldReleasesEveryLineAndDisregardsEvents : Prop :=
  (∀ s : State, ∃ t, exec .resetLineAsserted s = .next t ∧
     t = { s with resetHeld := true, sent := [], sections := t.sections, syncs := t.syncs } ∧
     ∀ b, t.sec b = { s.sec b with outletCommand := .opened, couplerOpen := none, checkRequest := false } ∧
       t.sync b = { s.sync b with closeLine := false }) ∧
  (∀ s : State, s.resetHeld = true →
     (∀ c : Instr, actsWhileHeld c = false → exec c s = .next { s with sent := [] }) ∧
     (∀ b x, exec (.emergencyStopChange b x) s =
       .next { s.modSec b fun c => { c with emergencyStop := x } with sent := [] }) ∧
     (∀ b x, exec (.plugPilotChange b x) s = .next { s.modSec b fun c => { c with plugPilot := x } with sent := [] }) ∧
     (∀ b x, exec (.outletAuxChange b x) s = .next { s.modSec b fun c => { c with outletAux := x } with sent := [] }) ∧
     (∀ b x, exec (.couplerAuxChange b x) s =
       .next { s.modSec b fun c => { c with couplerAux := x } with sent := [] }) ∧
     ∀ b x, exec (.earthResultChange b x) s =
       .next { s.modSec b fun c => { c with earthResult := x } with sent := [] })

/-- R168, R169, R170: a request that its link does not accept is refused NOT_PERMITTED, one of another length than its
code requires BAD_VALUE, and one whose berth octet names no berth BAD_VALUE; nothing but the reply follows.

R5: of a berth's requests that need authority the screening refuses in order: a berth out of service
NOT_IN_SERVICE, a stage that does not accept the request WRONG_STAGE, a sender without authority NO_AUTHORITY; a refused
request changes no state of the berth. -/
def Obligations.RequestsAreScreenedInOrder : Prop :=
  (∀ (l : Link) (code : Byte) (payload : List Byte) (c : Instr) (s : State),
     requestOf l code payload = some c → s.hears l →
     (payloadLength code.toNat l = none →
       exec c s = .next (emit (refusal l code .notPermitted) (heard l s))) ∧
     (∀ n, payloadLength code.toNat l = some n → payload.length ≠ n →
       exec c s = .next (emit (refusal l code .badValue) (heard l s))) ∧
     ((∀ b, l ≠ .ship b) → addressed code.toNat = true → payloadLength code.toNat l = some payload.length →
       2 < (payload.headD 0#8).toNat →
       exec c s = .next (emit (refusal l code .badValue) (heard l s)))) ∧
  (∀ (l : Link) (b : Berth) (p : List Byte) (code : Byte) (c : Instr) (s : State),
     s.hears l → speaksFor l b →
     [0x0B, 0x0C, 0x0D, 0x0E, 0x0F, 0x10].contains code.toNat = true →
     payloadLength code.toNat l = some (berthField l b ++ p).length →
     requestOf l code (berthField l b ++ p) = some c →
     ((s.berth b).inService = false → exec c s = .next (emit (refusal l code .notInService) (heard l s))) ∧
     ((s.berth b).inService = true → (s.berth b).accepts code.toNat = false →
       exec c s = .next (emit (refusal l code .wrongStage) (heard l s))) ∧
     ((s.berth b).inService = true → (s.berth b).accepts code.toNat = true → (s.berth b).holder ≠ requester l →
       exec c s = .next (emit (refusal l code .noAuthority) (heard l s))))

/-- R31, R100, R120, R136, R153, R164, R169: the requests about one berth that only answer: Read Synchroniser, Read Ramp,
Read Protection, Read Meter, Read Offer outside VACANT, Fetch Copy. Nothing but the reply follows.

R68, R84, R120, R153, R162, R166, R169: the requests about the plant that only answer: Read Module Pool, Read Budget,
Read Tariff, Read Record Pool, Read Measurement, Fetch Record, Keep Alive. Nothing but the reply follows.

The model's choices (log 23): how the items of these replies are laid out, Read Measurement's order of A, B, C and then
the receiver, the single presence octet in front of an offer, and the items of Fetch Record and Fetch Copy. -/
def Obligations.ReadsOnlyAnswer : Prop :=
  (∀ (l : Link) (b : Berth) (s : State), s.hears l →
     (speaksFor l b →
       exec (.readSynchroniser l (berthField l b)) s = .next (emit (doneReply l 0x15#8 (s.syncItems b)) (heard l s)) ∧
       exec (.readRamp l (berthField l b)) s = .next (emit (doneReply l 0x16#8 (s.rampItems b)) (heard l s)) ∧
       exec (.readProtection l (berthField l b)) s =
         .next (emit (doneReply l 0x18#8 (s.protectionItems b)) (heard l s)) ∧
       ((s.berth b).stage ≠ .vacant →
         exec (.readOffer l (berthField l b)) s =
           .next (emit (doneReply l 0x04#8 (optional 12 offerItems (s.unit b).offer)) (heard l s))) ∧
       ((s.berth b).stage = .vacant →
         exec (.readOffer l (berthField l b)) s = .next (emit (refusal l 0x04#8 .wrongStage) (heard l s)))) ∧
     (speaksFor l b ∨ l = .tariff →
       exec (.readMeter l (berthField l b)) s = .next (emit (doneReply l 0x19#8 (meterItems (s.meter b))) (heard l s))) ∧
     (l = .ship b →
       exec (.fetchCopy l []) s =
         .next (emit (doneReply l 0x27#8
           (headItems s.records (s.records.copyQueues.get b) ++ field 1 (s.records.missedCopies.get b))) (heard l s)))) ∧
  (∀ (l : Link) (s : State), s.hears l →
     exec (.keepAlive l []) s = .next (emit (doneReply l 0x23#8 []) (heard l s)) ∧
     (l = .shore →
       exec (.readModulePool l []) s = .next (emit (doneReply l 0x13#8 s.poolItems) (heard l s)) ∧
       exec (.readBudget l []) s = .next (emit (doneReply l 0x17#8 s.budgetItems) (heard l s)) ∧
       exec (.readMeasurement l []) s =
         .next (emit (doneReply l 0x14#8 (allBerths.flatMap s.measurementItems ++ portItems s.port)) (heard l s))) ∧
     (∀ b, l = .ship b →
       exec (.readMeasurement l []) s = .next (emit (doneReply l 0x14#8 (s.measurementItems b)) (heard l s))) ∧
     (l = .shore ∨ l = .tariff →
       exec (.readTariff l []) s = .next (emit (doneReply l 0x1A#8 s.tariffItems) (heard l s)) ∧
       exec (.readRecordPool l []) s = .next (emit (doneReply l 0x1B#8 s.records.items) (heard l s))) ∧
     (l = .tariff →
       exec (.fetchRecord l []) s =
         .next (emit (doneReply l 0x25#8 (headItems s.records s.records.tariffQueue)) (heard l s))))

/-- R174: all settings are volatile, the RESET line and power-on return each to its default, a Plant Reset keeps them,
and Read Settings answers with all of them and changes nothing. The order of its items, the settings of A, of B and of C
and then the plant settings, is the model's choice (log 23). -/
def Obligations.SettingsAreVolatileAndReadable : Prop :=
  (∀ s : State, ∃ t, exec .resetLine s = .next t ∧ exec .powerOn s = .next t ∧ t.settings = Settings.default) ∧
    (∀ s : State, s.hears .shore → ∃ t, exec (.plantReset .shore []) s = .next t ∧ t.settings = s.settings) ∧
    ∀ s : State, s.hears .shore →
      exec (.readSettings .shore []) s =
        .next (emit
          (doneReply .shore 0x1F#8
            ((allBerths.flatMap fun b => settingItems (s.setting b)) ++ num s.settings.rating ++
              num s.settings.intervalLength ++ num s.settings.tSpace ++ num s.settings.tCycle ++
              num s.settings.importLimit ++ num s.settings.threshold))
          (heard .shore s))

/-- R4, R122: Read Berth answers with the berth as it stands; on the shore link it then clears the berth's change flags,
on the ship link it changes nothing. How the reply's items are laid out (the module count sent twice, a list by its
count, a timer as a time, frequency and voltage in one octet each) is the model's choice (log 23).

R171: Read Notices answers with the link's flag set as it stands and then clears every flag and outstanding. -/
def Obligations.ClearingReadsAnswerThenClear : Prop :=
  (∀ (b : Berth) (s : State),
     (s.hears .shore →
       exec (.readBerth .shore [berthOctet b]) s =
         .next ((emit (doneReply .shore 0x03#8 (s.berthItems b)) (heard .shore s)).modSec b fun c =>
           { c with flags := ChangeFlags.clear })) ∧
     (s.hears (.ship b) →
       exec (.readBerth (.ship b) []) s = .next (emit (doneReply (.ship b) 0x03#8 (s.berthItems b)) (heard (.ship b) s)))) ∧
  (∀ (l : Link) (s : State), s.hears l →
     exec (.readNotices l []) s =
       .next ((emit (doneReply l 0x21#8 (octets 8 (s.links.get l).flags.toNat)) (heard l s)).modLink l fun k =>
         { k with flags := 0#64, outstanding := false }))

/-- R171: Set Notice Mask replaces the mask of the flags the link carries; a notice frame is sent, and outstanding set,
exactly when the new mask enables a set flag while outstanding is clear. The notice frame leaves before the reply: the
model's choice (log 6).

R171: latching a flag that is set does nothing; a flag going from clear to set sets its bit and sends a notice frame
with the whole flag set exactly when its enable is on, outstanding is clear and the link is up. Nothing else changes. -/
def Obligations.NoticesAreSentOnceUntilRead : Prop :=
  (∀ (l : Link) (mask : BitVec 64) (s : State), s.hears l →
     ∃ t, exec (.setNoticeMask l (octets 8 mask.toNat)) s = .next t ∧
       t = { heard l s with links := t.links, sent := t.sent } ∧
       (∀ k, k ≠ l → t.links.get k = s.links.get k) ∧
       (t.links.get l).mask = mask &&& Links.carried l ∧ (t.links.get l).flags = (s.links.get l).flags ∧
       ((s.links.get l).flags &&& (t.links.get l).mask ≠ 0#64 ∧ (s.links.get l).outstanding = false →
         (t.links.get l).outstanding = true ∧
         t.sent = [.notice l (s.links.get l).flags, doneReply l 0x22#8 []]) ∧
       ((s.links.get l).flags &&& (t.links.get l).mask = 0#64 ∨ (s.links.get l).outstanding = true →
         (t.links.get l).outstanding = (s.links.get l).outstanding ∧ t.sent = [doneReply l 0x22#8 []])) ∧
  (∀ (l : Link) (i : Nat) (s : State), i < 64 →
     (flagSet (s.links.get l).flags i = true → latch l i s = s) ∧
     (flagSet (s.links.get l).flags i = false →
       latch l i s = { s with links := (latch l i s).links, sent := (latch l i s).sent } ∧
       (∀ k, k ≠ l → (latch l i s).links.get k = s.links.get k) ∧
       (∀ j, j < 64 → flagSet ((latch l i s).links.get l).flags j = (flagSet (s.links.get l).flags j || decide (j = i))) ∧
       (flagSet (s.links.get l).mask i = true ∧ (s.links.get l).outstanding = false ∧ (s.links.get l).up = true →
         ((latch l i s).links.get l).outstanding = true ∧
         (latch l i s).sent = s.sent ++ [.notice l ((latch l i s).links.get l).flags]) ∧
       (flagSet (s.links.get l).mask i = false ∨ (s.links.get l).outstanding = true ∨ (s.links.get l).up = false →
         ((latch l i s).links.get l).outstanding = (s.links.get l).outstanding ∧ (latch l i s).sent = s.sent)))

/-- R168: a request whose code the part does not know is answered UNKNOWN, a frame of the reply or notice kind is
disregarded but for the silence timer, and a discarded frame that holds no further sync octet changes nothing.

R168: after a discarded frame the receiver hunts on from the octet that follows its sync octet, so a whole frame of a
request inside it is taken as that request. -/
def Obligations.OtherFramesChangeNothing : Prop :=
  (∀ (l : Link) (s : State),
     (∀ code payload, s.hears l → knownCode code = false →
       exec (.unknownRequest l code payload) s = .next (emit (.reply l code .unknown none []) (heard l s))) ∧
     (∀ kind code payload, s.hears l → kind ≠ 0#8 →
       exec (.nonRequestFrame l kind code payload) s = .next (heard l s)) ∧
     ∀ octets : List Byte, s.quiet → (s.links.get l).rx = [] → parseFrame octets = .bad → 0xA5#8 ∉ octets →
       exec (.discardedFrame l octets) s = .next (cleared s)) ∧
  (∀ (l : Link) (before : List Byte) (code : Byte) (payload : List Byte) (s : State),
     s.hears l → (s.links.get l).rx = [] → payload.length ≤ 120 → 0xA5#8 ∉ before →
     parseFrame (before ++ frameOctets 0#8 code payload) = .bad →
     ∃ t, exec (.discardedFrame l (before ++ frameOctets 0#8 code payload)) s = .next t ∧
       exec (((requestOf l code payload).getD (.unknownRequest l code payload))) s = .next t)

/-- R172, R168, R7, R134: any valid frame on a DOWN link (a request of any code with any payload, a frame of another
kind) declares it up and starts its silence timer; on a ship link it clears the berth's link-lost flag and stops the
grace timer.

R171, R172, R7: where the frame asks for nothing further (a frame of another kind, a request of an unknown code, a Keep
Alive), an enabled flag makes a notice outstanding, and a berth in VACANT in service with its pilot closed enters
NEGOTIATING and is sent its offer; every other stage stays.

The reply standing behind all else that its request sends is the model's choice (log 6). -/
def Obligations.FirstFrameDeclaresTheLinkUp : Prop :=
  (∀ (l : Link) (kind code : Byte) (payload : List Byte) (s : State), s.quiet → (s.links.get l).up = false →
     ∃ t, exec (commandOfFrame l kind code payload) s = .next t ∧ (t.links.get l).up = true ∧
       (t.links.get l).silence = some (s.now + silenceSeconds l * 10000000) ∧
       ∀ b, l = .ship b → (t.berth b).linkLost = false ∧ (t.sec b).graceTimer = none) ∧
  (∀ (l : Link) (kind code : Byte) (payload : List Byte) (s : State), s.quiet → (s.links.get l).up = false →
     kind ≠ 0#8 ∨ knownCode code = false ∨ code = 0x23#8 →
     ∃ t, exec (commandOfFrame l kind code payload) s = .next t ∧ t.settings = s.settings ∧ t.records = s.records ∧
       t.pool = s.pool ∧ t.budget = s.budget ∧ t.meters = s.meters ∧
       (kind = 0#8 → knownCode code = false → t.sent.getLast? = some (.reply l code .unknown none [])) ∧
       (kind = 0#8 → code = 0x23#8 → payload = [] → t.sent.getLast? = some (doneReply l 0x23#8 [])) ∧
       ((s.links.get l).flags &&& (s.links.get l).mask ≠ 0#64 ∧ (s.links.get l).outstanding = false →
         (t.links.get l).outstanding = true) ∧
       ∀ b, l = .ship b →
         ((s.berth b).stage = .vacant ∧ (s.berth b).inService = true ∧ (s.sec b).plugPilot = .closed →
           (t.berth b).stage = .negotiating ∧ (t.unit b).phase = .offered ∧
           .offer (.ship b) (offerOf b s) ∈ t.sent) ∧
         (¬ ((s.berth b).stage = .vacant ∧ (s.berth b).inService = true ∧ (s.sec b).plugPilot = .closed) →
           (t.berth b).stage = (s.berth b).stage))

/-- R6: Berth Enable puts a berth in service and in VACANT moves it on when R7's conditions are complete; Berth Disable
takes it out of service, moves NEGOTIATING and AGREED to VACANT, leaves VACANT and TRIPPED, is refused in every other
stage, and (R22) makes a later Clear Trip lead to VACANT.

R7, R165, R159: at that entry to VACANT the ship copy queue is emptied, each slot's count falling by its copies and the
slot FREE where it reaches 0, with no record held; the missed copies become 0, the notice is armed, and the copy-wanted
marks of the berth's held records are cleared, each held record being one of the berth it is held for. With no record
held the tariff queue stays; with a record held and copies in the queue the statement says no more than that the queue
is empty, the count 0, and no mark of the berth left.

The reply standing behind all else that its request sends is the model's choice (log 6). -/
def Obligations.BerthEnableAndDisable : Prop :=
  ∀ (b : Berth) (s : State), s.hears .shore →
    (∃ t, exec (.berthEnable .shore [berthOctet b]) s = .next t ∧
      (t.berth b).inService = true ∧ t.sent.getLast? = some (doneReply .shore 0x01#8 []) ∧
      ((s.berth b).stage = .vacant ∧ (s.berth b).linkLost = false ∧ (s.sec b).plugPilot = .closed →
        (t.berth b).stage = .negotiating) ∧
      (¬ ((s.berth b).stage = .vacant ∧ (s.berth b).linkLost = false ∧ (s.sec b).plugPilot = .closed) →
        t = emit (doneReply .shore 0x01#8 []) ((heard .shore s).modBerth b fun r => { r with inService := true })) ∧
      ((s.berth b).inService = true ∧
          ¬ ((s.berth b).stage = .vacant ∧ (s.berth b).linkLost = false ∧ (s.sec b).plugPilot = .closed) →
        t = emit (doneReply .shore 0x01#8 []) (heard .shore s))) ∧
    ((s.berth b).stage.mayDisable = true →
      ∃ t, exec (.berthDisable .shore [berthOctet b]) s = .next t ∧
        (t.berth b).inService = false ∧ t.sent.getLast? = some (doneReply .shore 0x02#8 []) ∧
        ((s.berth b).stage = .negotiating ∨ (s.berth b).stage = .agreed →
          (t.berth b).stage = .vacant ∧ (t.berth b).holder = .nobody ∧ (t.berth b).agreement = none ∧
          ((∀ h ∈ s.records.held, ∀ x, (s.meter h.berth).held = some x → x.berth = h.berth) →
            t.records.copyQueues.get b = [] ∧ t.records.missedCopies.get b = 0 ∧ t.records.copyArmed.get b = true ∧
            ∀ h ∈ t.records.held, h.berth = b → h.copyWanted = false) ∧
          (s.records.held = [] →
            t.records.tariffQueue = s.records.tariffQueue ∧ t.records.held = [] ∧
            (∀ c, c ≠ b → t.records.copyQueues.get c = s.records.copyQueues.get c) ∧
            ∀ i, t.records.slots.get i = lowered (s.records.copyQueues.get b) i (s.records.slots.get i)) ∧
          (s.records.copyQueues.get b = [] →
            t.records.held =
              s.records.held.map (fun h => if h.berth = b then { h with copyWanted := false } else h) ∧
            t.records.slots = s.records.slots)) ∧
        ((s.berth b).stage = .vacant ∨ (s.berth b).stage = .tripped →
          t = emit (doneReply .shore 0x02#8 [])
            ((heard .shore s).modBerth b fun r => { r with inService := false }))) ∧
    ((s.berth b).stage.mayDisable = false →
      exec (.berthDisable .shore [berthOctet b]) s = .next (emit (refusal .shore 0x02#8 .wrongStage) (heard .shore s))) ∧
    ((s.berth b).stage = .tripped ∧ (s.berth b).inService = false ∧ s.causePresent b = false →
      ∃ t, exec (.clearTrip .shore [berthOctet b]) s = .next t ∧ (t.berth b).stage = .vacant)

/-- R3, R15: Ship Status stores load and generators with the time; in RAMPING_IN a report of 0 generators moves the
berth to SHORE_CARRYING, with its reference in FORM and its ramp IDLE at the setpoint; in every other case the stage
stays. More than 8 generators are refused.

The reply standing behind all else that its request sends is the model's choice (log 6). -/
def Obligations.ShipStatusIsStoredAndEndsTheRampIn : Prop :=
  ∀ (b : Berth) (load : BitVec 16) (generators : Byte) (s : State),
    s.asks (.ship b) b → (s.berth b).stage ≠ .vacant →
    (8 < generators.toNat →
      exec (.shipStatus (.ship b) (octets 2 load.toNat ++ [generators])) s =
        .next (emit (refusal (.ship b) 0x05#8 .badValue) (heard (.ship b) s))) ∧
    (generators.toNat ≤ 8 →
      ∃ t, exec (.shipStatus (.ship b) (octets 2 load.toNat ++ [generators])) s = .next t ∧
        leavesOthers b (heard (.ship b) s) t ∧ t.sent.getLast? = some (doneReply (.ship b) 0x05#8 []) ∧
        (t.berth b).status = some { loadKw := load.toNat, generators := generators.toNat, takenAt := s.now } ∧
        (t.berth b).holder = (s.berth b).holder ∧ (t.ramp b).setpoint = (s.ramp b).setpoint ∧
        ((s.berth b).stage = .rampingIn ∧ generators.toNat = 0 →
          (t.berth b).stage = .shoreCarrying ∧ (t.reference b).mode = .form ∧
          ((s.reference b).mode ≠ .stopped → (t.reference b).accumulator = (s.reference b).accumulator) ∧
          (t.ramp b).wanted = (s.ramp b).setpoint ∧ (t.ramp b).target = (s.ramp b).setpoint ∧
          (t.ramp b).state = .idle ∧ t.waitEntry b = none) ∧
        (¬ ((s.berth b).stage = .rampingIn ∧ generators.toNat = 0) →
          t = emit (doneReply (.ship b) 0x05#8 []) ((heard (.ship b) s).modBerth b fun r =>
            { r with status := some { loadKw := load.toNat, generators := generators.toNat, takenAt := s.now } })))

/-- R23: what Request Authority answers and does, by holder and requester.

R26: Seize Authority makes SHORE the holder, removes a pending request, and latches AUTHORITY_SEIZED exactly when the
ship held authority or had a request pending.

R25: a pending request expires 30 s after it was raised: it is removed, the holder stays and AUTHORITY_REFUSED is
latched; with none pending there is nothing to expire.

The reply standing behind all else that its request sends is the model's choice (log 6). An expiry's command carrying
the time forward to its moment is the model's choice (log 3). -/
def Obligations.AuthorityIsGrantedSeizedAndExpires : Prop :=
  (∀ (l : Link) (b : Berth) (s : State), s.asks l b → (s.berth b).stage.hasAuthority = true →
     ((s.berth b).holder = .nobody →
       exec (.requestAuthority l (berthField l b)) s =
         .next (emit (doneReply l 0x08#8 []) ((heard l s).modBerth b fun r => { r with holder := requester l }))) ∧
     ((s.berth b).holder = requester l →
       exec (.requestAuthority l (berthField l b)) s = .next (emit (doneReply l 0x08#8 []) (heard l s))) ∧
     ((s.berth b).holder = .shore → l = .ship b → (s.berth b).pendingSince = none →
       exec (.requestAuthority l (berthField l b)) s =
         .next (emit (.reply l 0x08#8 .pending none [])
           (latchShore (.authorityWanted b)
             ((heard l s).modBerth b fun r => { r with pendingSince := some s.now })))) ∧
     ((s.berth b).holder = .shore → l = .ship b → (s.berth b).pendingSince ≠ none →
       exec (.requestAuthority l (berthField l b)) s =
         .next (emit (.reply l 0x08#8 .pending none []) (heard l s))) ∧
     ((s.berth b).holder = .ship → l = .shore →
       exec (.requestAuthority l (berthField l b)) s = .next (emit (refusal l 0x08#8 .busy) (heard l s)))) ∧
  (∀ (b : Berth) (s : State), s.asks .shore b → (s.berth b).stage.hasAuthority = true →
     ((s.berth b).holder = .ship ∨ (s.berth b).pendingSince ≠ none →
       exec (.seizeAuthority .shore [berthOctet b]) s =
         .next (emit (doneReply .shore 0x0A#8 [])
           (latchShip b .authoritySeized
             ((heard .shore s).modBerth b fun r => { r with holder := .shore, pendingSince := none })))) ∧
     ((s.berth b).holder ≠ .ship ∧ (s.berth b).pendingSince = none →
       exec (.seizeAuthority .shore [berthOctet b]) s =
         .next (emit (doneReply .shore 0x0A#8 []) ((heard .shore s).modBerth b fun r => { r with holder := .shore })))) ∧
  (∀ (b : Berth) (s : State), s.quiet →
     (∀ raised, (s.berth b).pendingSince = some raised →
       exec (.authorityExpiry b) s =
         .next (latchShip b .authorityRefused
           ((atExpiry (raised + 30 * 10000000) s).modBerth b fun r => { r with pendingSince := none }))) ∧
     ((s.berth b).pendingSince = none → exec (.authorityExpiry b) s = .next (cleared s)))

/-- R24: Release Authority from the holder hands over to a pending ship with AUTHORITY_GRANTED, or leaves NONE; from a
pending ship it withdraws the request; from any other party it is refused NO_AUTHORITY.

The reply standing behind all else that its request sends is the model's choice (log 6). -/
def Obligations.ReleaseAuthorityHandsOver : Prop :=
  ∀ (l : Link) (b : Berth) (s : State), s.asks l b → (s.berth b).stage.hasAuthority = true →
    ((s.berth b).holder = requester l → (s.berth b).pendingSince ≠ none →
      exec (.releaseAuthority l (berthField l b)) s =
        .next (emit (doneReply l 0x09#8 [])
          (latchShip b .authorityGranted
            ((heard l s).modBerth b fun r => { r with holder := .ship, pendingSince := none })))) ∧
    ((s.berth b).holder = requester l → (s.berth b).pendingSince = none →
      exec (.releaseAuthority l (berthField l b)) s =
        .next (emit (doneReply l 0x09#8 []) ((heard l s).modBerth b fun r => { r with holder := .nobody }))) ∧
    ((s.berth b).holder ≠ requester l → l = .ship b → (s.berth b).pendingSince ≠ none →
      exec (.releaseAuthority l (berthField l b)) s =
        .next (emit (doneReply l 0x09#8 []) ((heard l s).modBerth b fun r => { r with pendingSince := none }))) ∧
    ((s.berth b).holder ≠ requester l → (l = .shore ∨ (s.berth b).pendingSince = none) →
      exec (.releaseAuthority l (berthField l b)) s = .next (emit (refusal l 0x09#8 .noAuthority) (heard l s)))

/-- R10, R12, R13: Connect in AGREED takes the berth to ALLOCATING with its 600 s timer, where with no module free its
entry of agreed kW by rating, rounded up, joins the queue's tail; Connect in ENERGISING under the hold starts the
Synchroniser, with the reference in TRIM.

R59, R61, R64: behind a head that cannot be granted the new entry waits at the tail and no module is granted. At the
head of the queue, with enough modules free, it is granted whole and leaves the queue: the lowest-numbered READY modules
enter RUNNING, and for the rest the lowest-numbered eligible DARK modules wait for their charge start or have made it.
The RUNNING ones carry the shares of R67. Where READY modules alone serve it the allocation is complete: the stage timer
stops and the outlet is commanded closed for 300 ms.

The reply standing behind all else that its request sends is the model's choice (log 6). -/
def Obligations.ConnectAllocatesOrSynchronises : Prop :=
  ∀ (l : Link) (b : Berth) (s : State), s.commands l b →
    ((s.berth b).stage = .agreed →
      ∃ t, exec (.connect l (berthField l b)) s = .next t ∧ leavesOthers b (heard l s) t ∧
        t.sent.getLast? = some (doneReply l 0x0B#8 []) ∧ (t.berth b).stage = .allocating ∧
        (t.berth b).holder = (s.berth b).holder ∧ (t.berth b).agreement = (s.berth b).agreement ∧
        t.records = s.records ∧ t.meters = s.meters ∧
        (s.pool.queue = [] ∧ s.readyModules = [] ∧ s.eligibleModules = [] ∧ 0 < s.agreedKw b ∧
            0 < s.settings.rating →
          (t.berth b).stageTimer = some (s.now + 600 * 10000000) ∧
          ∃ wanted, t.pool.queue = [{ berth := b, wanted := wanted, kind := .new, entered := s.elapsedMs }] ∧
            s.agreedKw b ≤ wanted * s.settings.rating ∧ (wanted - 1) * s.settings.rating < s.agreedKw b) ∧
        (∀ e rest, s.pool.queue = e :: rest → s.readyModules.length + s.eligibleModules.length < e.wanted →
          (t.berth b).stageTimer = some (s.now + 600 * 10000000) ∧ (∀ m, (t.module m).berth = (s.module m).berth) ∧
          t.pool.queue = s.pool.queue ++
            [{ berth := b, wanted := modulesWanted (s.agreedKw b) s.settings.rating, kind := .new,
               entered := s.elapsedMs }]) ∧
        (s.pool.queue = [] → s.pool.chargeList = [] →
          let n := modulesWanted (s.agreedKw b) s.settings.rating
          let ready := s.readyModules.take n
          let dark := s.eligibleModules.take (n - s.readyModules.length)
          0 < n → n ≤ s.readyModules.length + s.eligibleModules.length →
          t.pool.queue = [] ∧ (∀ m ∈ ready, (t.module m).state = .running ∧ (t.module m).berth = some b) ∧
          (∀ m ∈ dark, (t.module m).berth = some b ∧
            ((t.module m).state = .dark ∧ m ∈ t.pool.chargeList ∨ (t.module m).state = .charging)) ∧
          (∀ m, m ∉ ready → m ∉ dark → (t.module m).berth = (s.module m).berth) ∧
          (t.berth b).moduleCount = (s.berth b).moduleCount + ready.length ∧ (ready ≠ [] → sharesFollow b t) ∧
          (s.readyModules.length < n →
            (t.berth b).stageTimer = some (s.now + 600 * 10000000) ∧ t.sec b = s.sec b) ∧
          (n ≤ s.readyModules.length → (∀ m, (s.module m).berth ≠ some b) → (s.sec b).outletCommand = .opened →
            (t.berth b).stageTimer = none ∧
            t.sec b = { s.sec b with outletCommand := .closed, supervision := .closing (s.now + 300 * 10000) }))) ∧
    ((s.berth b).stage = .energising ∧ (s.berth b).syncHold = true →
      ∃ t, exec (.connect l (berthField l b)) s = .next t ∧ leavesOthers b (heard l s) t ∧
        t.sent.getLast? = some (doneReply l 0x0B#8 []) ∧ (t.berth b).stage = .synchronising ∧
        (t.berth b).syncHold = false ∧ (t.berth b).stageTimer = none ∧ (t.reference b).mode = .trim ∧
        (t.sync b).running = true ∧ (t.sync b).count = 0 ∧ (t.sync b).failures = 0 ∧ (t.sync b).last = none ∧
        (t.sync b).syncTimer = some (s.now + (s.setting b).syncTimeout * 10000000) ∧
        t.records = s.records ∧ t.meters = s.meters ∧ t.pool = s.pool ∧ t.budget = s.budget ∧ t.units = s.units)

/-- R104, R102: a Ramp Step moves PARALLEL to RAMPING_IN, sets the wanted target and the clamped rate, releases a HELD
ramp, leaves the setpoint, and answers with the new target and reservation, CLAMPED where the rate was clamped or the
target stays below the wanted one. The target is the smaller of the bounded target and the reservation, and the ramp is
MOVING where it differs from the setpoint, its first advance 100 ms later where the ramp was not MOVING, else IDLE.

R104: the rate of a Ramp Step lies between 50 and 2,000 kW/s, and from a ship at or below the offer's maximum.

R113, R115, R112: a Ramp Step never takes the sum of the reservations above the import limit, nor a sum that lies
above it any higher.

R113, R114, R115, R116: a need above the reservation raises it by the smaller of the amount asked and the headroom, if
that is above 0, and where this is less the berth joins the tail with its need; a berth in the list keeps its place with
its new need, but gives it up where the wanted target falls; a lower need lowers the reservation. What headroom there
then is goes to the list's head first, then, the head satisfied and removed, to the next, and so on.

The reply standing behind all else that its request sends is the model's choice (log 6). -/
def Obligations.RampStepSetsTargetAndRateWithinTheLimit : Prop :=
  (∀ (l : Link) (b : Berth) (wanted rate : BitVec 16) (s : State), s.commands l b → (s.berth b).stage.mayStep = true →
     ∃ t, exec (.rampStep l (berthField l b ++ octets 2 wanted.toNat ++ octets 2 rate.toNat)) s = .next t ∧
       leavesOthers b (heard l s) t ∧ (t.berth b).stage = .rampingIn ∧ (t.berth b).holder = (s.berth b).holder ∧
       (t.ramp b).wanted = wanted.toNat ∧ (t.ramp b).rate = clampRate l b rate.toNat s ∧
       (t.ramp b).setpoint = (s.ramp b).setpoint ∧ (t.ramp b).state ≠ .held ∧
       (t.ramp b).target =
         min (min wanted.toNat (min (s.agreedKw b) (s.ramp b).capacity)) (t.reservation b) ∧
       ((t.ramp b).target = (s.ramp b).setpoint →
         (t.ramp b).state = .idle ∧ ((s.ramp b).state = .moving → (t.ramp b).advance = none)) ∧
       ((t.ramp b).target ≠ (s.ramp b).setpoint →
         (t.ramp b).state = .moving ∧
         ((s.ramp b).state ≠ .moving → (t.ramp b).advance = some (s.now + 100 * 10000)) ∧
         ((s.ramp b).state = .moving → s.waitEntry b = none → (t.ramp b).advance = (s.ramp b).advance)) ∧
       t.pool = s.pool ∧ t.records = s.records ∧ t.meters = s.meters ∧ t.syncs = s.syncs ∧ t.units = s.units ∧
       t.references = s.references ∧ t.sections = s.sections ∧
       t.sent.getLast? = some (.reply l 0x0C#8
         (doneOr (decide (clampRate l b rate.toNat s ≠ rate.toNat) || decide ((t.ramp b).target < wanted.toNat)))
         none (num (t.ramp b).target ++ num (t.reservation b)))) ∧
  (∀ (l : Link) (b : Berth) (rate : Nat) (s : State) (o : Offer), (s.unit b).offer = some o →
     clampRate l b rate s =
       (if l = .shore ∨ l = .tariff then max 50 (min 2000 rate) else min (max 50 (min 2000 rate)) o.maxRate)) ∧
  (∀ (l : Link) (b : Berth) (wanted rate : BitVec 16) (s : State), s.commands l b → (s.berth b).stage.mayStep = true →
     ∃ t, exec (.rampStep l (berthField l b ++ octets 2 wanted.toNat ++ octets 2 rate.toNat)) s = .next t ∧
       t.reserved ≤ max s.settings.importLimit s.reserved) ∧
  (∀ (l : Link) (b : Berth) (wanted rate : BitVec 16) (s : State), s.commands l b → (s.berth b).stage.mayStep = true →
     let need := max (s.ramp b).setpoint (min wanted.toNat (min (s.agreedKw b) (s.ramp b).capacity))
     ∃ t, exec (.rampStep l (berthField l b ++ octets 2 wanted.toNat ++ octets 2 rate.toNat)) s = .next t ∧
       (s.waitEntry b = none →
         (t.budget.reservations, t.budget.waiting) =
           asked s.settings.importLimit b need s.budget.reservations s.budget.waiting) ∧
       ∀ before e after, s.budget.waiting = before ++ e :: after → e.berth = b →
         (∀ x ∈ before ++ after, x.berth ≠ b) →
         (wanted.toNat < (s.ramp b).wanted →
           (t.budget.reservations, t.budget.waiting) =
             asked s.settings.importLimit b need (withoutEntry b s).1 (withoutEntry b s).2) ∧
         ((s.ramp b).wanted ≤ wanted.toNat →
           (t.budget.reservations, t.budget.waiting) =
             if s.reservation b < need then
               served s.settings.importLimit s.budget.reservations
                 (before ++ { berth := b, wanted := need } :: after)
             else served s.settings.importLimit (s.budget.reservations.set b need) (before ++ after)))

/-- R105: Hold sets the wanted target to the setpoint, gives up the berth's place on the waiting list, puts the ramp HELD
and stops its advances; the target is recomputed from the reservation the berth holds.

R105, R114, R116: where the berth stood on the waiting list the headroom is first offered to the list without it; the
reservation then falls to the setpoint where it lies above, and what that frees goes to the list.

R16, R106: Depart from SHORE_CARRYING, and Abort from PARALLEL or RAMPING_IN, take a berth with a setpoint above 0 to
RAMPING_OUT with wanted target and target 0, its ramp MOVING, its reservation at the setpoint at most, Depart at the
request's clamped rate with the reference in its role's mode, Abort at 2,000 kW/s with the reference kept.

R106, R107: with the setpoint at 0 both make the separation test at the entry: with a power of age 5 at most within the
threshold the berth enters SEPARATING with cause NORMAL and, the coupler closed, its open pulse; otherwise it stays in
RAMPING_OUT, its ramp IDLE, and the separation wait of 30 s starts. An Abort in RAMPING_OUT at setpoint 0 changes the
rate and a HELD state and does not restart the wait.

The reply standing behind all else that its request sends is the model's choice (log 6). -/
def Obligations.HoldDepartAndAbortSteerTheRamp : Prop :=
  (∀ (l : Link) (b : Berth) (s : State), s.commands l b → (s.berth b).stage.mayStep = true →
     ∃ t, exec (.hold l (berthField l b)) s = .next t ∧ leavesOthers b (heard l s) t ∧
       t.sent.getLast? = some (doneReply l 0x0D#8 []) ∧ (t.berth b).stage = (s.berth b).stage ∧
       (t.ramp b).setpoint = (s.ramp b).setpoint ∧ (t.ramp b).wanted = (s.ramp b).setpoint ∧
       (t.ramp b).target =
         min (min (s.ramp b).setpoint (min (s.agreedKw b) (s.ramp b).capacity)) (s.reservation b) ∧
       (t.ramp b).rate = (s.ramp b).rate ∧ (t.ramp b).state = .held ∧ (t.ramp b).advance = none ∧
       t.waitEntry b = none ∧ t.reservation b = min (s.ramp b).setpoint (s.reservation b) ∧
       (t.budget.reservations, t.budget.waiting) =
         served s.settings.importLimit
           ((withoutEntry b s).1.set b (min (s.ramp b).setpoint (s.reservation b))) (withoutEntry b s).2 ∧
       t.pool = s.pool ∧ t.records = s.records ∧ t.meters = s.meters ∧ t.syncs = s.syncs ∧
       t.units = s.units ∧ t.references = s.references ∧ t.sections = s.sections) ∧
  (∀ (l : Link) (b : Berth) (s : State), s.commands l b → 0 < (s.ramp b).setpoint →
     let rampsOut := fun t : State =>
       (t.berth b).stage = .rampingOut ∧ (t.ramp b).wanted = 0 ∧ (t.ramp b).target = 0 ∧ (t.ramp b).state = .moving ∧
       (t.ramp b).setpoint = (s.ramp b).setpoint ∧ t.waitEntry b = none ∧
       t.reservation b = min (s.ramp b).setpoint (s.reservation b)
     (∀ (rate : BitVec 16) (a : Agreement), (s.berth b).mayDepart = true → (s.berth b).agreement = some a →
       ∃ t, exec (.depart l (berthField l b ++ octets 2 rate.toNat)) s = .next t ∧ leavesOthers b (heard l s) t ∧
         rampsOut t ∧ (t.ramp b).rate = clampRate l b rate.toNat s ∧ (t.reference b).mode = a.role.mode ∧
         (t.sec b).overCapacity = false ∧ (t.sec b).overloadTimer = none ∧
         t.sent.getLast? =
           some (.reply l 0x0E#8 (doneOr (decide (clampRate l b rate.toNat s ≠ rate.toNat))) none [])) ∧
     ((s.berth b).stage = .parallel ∨ (s.berth b).stage = .rampingIn →
       ∃ t, exec (.abort l (berthField l b)) s = .next t ∧ leavesOthers b (heard l s) t ∧
         rampsOut t ∧ (t.ramp b).rate = 2000 ∧ t.reference b = s.reference b ∧
         t.sent.getLast? = some (doneReply l 0x0F#8 [])) ∧
     ((s.berth b).stage = .rampingOut →
       ∃ t, exec (.abort l (berthField l b)) s = .next t ∧ leavesOthers b (heard l s) t ∧
         rampsOut t ∧ (t.ramp b).rate = 2000 ∧ t.sent.getLast? = some (doneReply l 0x0F#8 []))) ∧
  (∀ (l : Link) (b : Berth) (s : State), s.commands l b → (s.ramp b).setpoint = 0 →
     let ready := s.port.age.get b ≤ 5 ∧
       ∃ v, s.port.last.get b = some v ∧ (measuredKw v.power).natAbs ≤ s.settings.threshold
     let separates := fun t : State =>
       (t.berth b).stage = .separating ∧ (t.berth b).separationCause = some .normal ∧ (t.reference b).mode = .form ∧
       (t.sec b).couplerOpen = some ((s.sec b).couplerOpen.getD (s.now + 200 * 10000)) ∧ t.meters = s.meters
     let waits := fun t : State =>
       (t.berth b).stage = .rampingOut ∧ (t.ramp b).setpoint = 0 ∧ (t.ramp b).wanted = 0 ∧ (t.ramp b).target = 0 ∧
       (t.ramp b).state = .idle ∧ t.waitEntry b = none ∧ t.reservation b = 0
     (∀ (rate : BitVec 16) (a : Agreement), (s.berth b).mayDepart = true → (s.berth b).agreement = some a →
       ∃ t, exec (.depart l (berthField l b ++ octets 2 rate.toNat)) s = .next t ∧ leavesOthers b (heard l s) t ∧
         (t.ramp b).rate = clampRate l b rate.toNat s ∧
         t.sent.getLast? =
           some (.reply l 0x0E#8 (doneOr (decide (clampRate l b rate.toNat s ≠ rate.toNat))) none []) ∧
         (ready → (s.sec b).couplerAux = .closed → separates t) ∧
         (¬ ready → waits t ∧ (t.ramp b).separationWait = some (s.now + 30 * 10000000) ∧
           (t.reference b).mode = a.role.mode)) ∧
     ((s.berth b).stage = .parallel ∨ (s.berth b).stage = .rampingIn →
       ∃ t, exec (.abort l (berthField l b)) s = .next t ∧ leavesOthers b (heard l s) t ∧
         (t.ramp b).rate = 2000 ∧ t.sent.getLast? = some (doneReply l 0x0F#8 []) ∧
         (ready → (s.sec b).couplerAux = .closed → separates t) ∧
         (¬ ready → waits t ∧ (t.ramp b).separationWait = some (s.now + 30 * 10000000) ∧
           t.reference b = s.reference b)) ∧
     ((s.berth b).stage = .rampingOut →
       ∃ t, exec (.abort l (berthField l b)) s = .next t ∧ leavesOthers b (heard l s) t ∧
         waits t ∧ (t.ramp b).rate = 2000 ∧ (t.ramp b).separationWait = (s.ramp b).separationWait ∧
         (t.ramp b).separationDelayed = (s.ramp b).separationDelayed ∧ t.links = (heard l s).links ∧
         t.sent.getLast? = some (doneReply l 0x0F#8 [])))

/-- R10, R12, R13, R19, R20: Abort before PARALLEL brings the berth down: it enters RELEASING with its reference stopped,
its Synchroniser stopped, its schedule inactive and its outlet commanded open, and passes on to AGREED, or to VACANT with
its link lost, where no module is left and the outlet auxiliary shows open. A close in flight refuses it BUSY.

R19, R63, R110: its allocation queue entry and its waiting place are removed, its ramp is cleared but for the rate, its
reservation becomes 0, its RUNNING modules are sent DRAIN and enter DRAINING for 5 s, and its other modules lose their
grant.

R10, R19, R20, R63: the allocation timeout in ALLOCATING brings the berth down as an Abort does.

The reply standing behind all else that its request sends is the model's choice (log 6). An expiry's command carrying
the time forward to its moment is the model's choice (log 3). -/
def Obligations.AbortAndAllocationTimeoutBringTheBerthDown : Prop :=
  (∀ (l : Link) (b : Berth) (s : State), s.commands l b →
     ((s.berth b).stage = .allocating ∨ (s.berth b).stage = .energising ∨
         (s.berth b).stage = .synchronising ∧ (s.sync b).inFlight = false →
       ∃ t, exec (.abort l (berthField l b)) s = .next t ∧ leavesOthers b (heard l s) t ∧
         t.sent.getLast? = some (doneReply l 0x0F#8 []) ∧ givesUpModules b (heard l s) t ∧
         (t.reference b).mode = .stopped ∧
         (t.sync b).running = false ∧ (t.sec b).schedule = .inactive ∧ (t.sec b).outletCommand = .opened ∧
         ((t.berth b).moduleCount ≠ 0 ∨ (s.sec b).outletAux = .closed → (t.berth b).stage = .releasing) ∧
         ((t.berth b).moduleCount = 0 ∧ (s.sec b).outletAux = .opened ∧ (s.berth b).linkLost = false →
           (t.berth b).stage = .agreed) ∧
         ((t.berth b).moduleCount = 0 ∧ (s.sec b).outletAux = .opened ∧ (s.berth b).linkLost = true →
           (t.berth b).stage = .vacant ∧ (t.berth b).agreement = none)) ∧
     ((s.berth b).stage = .synchronising ∧ (s.sync b).inFlight = true →
       exec (.abort l (berthField l b)) s = .next (emit (refusal l 0x0F#8 .busy) (heard l s)))) ∧
  (∀ (b : Berth) (e : Nat) (s : State), s.quiet → (s.berth b).stage = .allocating →
     (s.berth b).stageTimer = some e →
     ∃ t, exec (.allocationTimeout b) s = .next t ∧ leavesOthers b (atExpiry e s) t ∧
       givesUpModules b (atExpiry e s) t ∧
       (t.reference b).mode = .stopped ∧ (t.sync b).running = false ∧ (t.sec b).outletCommand = .opened ∧
       ((t.berth b).moduleCount ≠ 0 ∨ (s.sec b).outletAux = .closed → (t.berth b).stage = .releasing) ∧
       ((t.berth b).moduleCount = 0 ∧ (s.sec b).outletAux = .opened ∧ (s.berth b).linkLost = false →
         (t.berth b).stage = .agreed) ∧
       ((t.berth b).moduleCount = 0 ∧ (s.sec b).outletAux = .opened ∧ (s.berth b).linkLost = true →
         (t.berth b).stage = .vacant))

/-- R17, R18: Force Separate with the coupler closed takes a joined berth to SEPARATING with cause FORCED: an open pulse
of 200 ms runs, the reference is in FORM, overload supervision and the earth-path schedule are cleared, and the
connection stays open.

R18, R63, R110: the berth gives up its allocation queue entry, its waiting place, its reservation and the grants of its
modules that are not RUNNING; its setpoint, wanted target, target and module shares become 0 with the ramp IDLE; its
RUNNING modules are kept.

The reply standing behind all else that its request sends is the model's choice (log 6). -/
def Obligations.ForceSeparateGivesTheOpenPulse : Prop :=
  ∀ (b : Berth) (s : State), s.commands .shore b → (s.berth b).stage.mayForce = true →
    (s.sec b).couplerAux = .closed →
    ∃ t, exec (.forceSeparate .shore [berthOctet b]) s = .next t ∧ leavesOthers b (heard .shore s) t ∧
      t.sent.getLast? = some (doneReply .shore 0x10#8 []) ∧ (t.berth b).stage = .separating ∧
      (t.berth b).separationCause = some .forced ∧ (t.berth b).holder = (s.berth b).holder ∧
      (t.sec b).couplerOpen = some ((s.sec b).couplerOpen.getD (s.now + 200 * 10000)) ∧
      (t.reference b).mode = .form ∧ (t.sec b).schedule = .inactive ∧ (t.sec b).overloadTimer = none ∧
      (t.sec b).graceTimer = none ∧ t.meters = s.meters ∧ t.records = s.records ∧
      givesUpGrants b (heard .shore s) t ∧ keepsRunning b s t

/-- R22, R128: Clear Trip is refused CAUSE_PRESENT while the condition of any cause in the set holds; otherwise the set
is emptied and the berth enters AGREED if it is in service with its link up and an agreement, and VACANT, or NEGOTIATING
beyond it, in every other case.

The reply standing behind all else that its request sends is the model's choice (log 6). -/
def Obligations.ClearTripWaitsForItsCauses : Prop :=
  ∀ (b : Berth) (s : State), s.hears .shore → (s.berth b).stage = .tripped →
    ((∃ c ∈ (s.berth b).causes,
        (s.sec b).outletAux = .closed ∨ (s.sec b).couplerAux = .closed ∨
          (∃ e, (s.sec b).supervision = .opening e) ∨
          c = .emergencyStop ∧ (s.sec b).emergencyStop = .opened ∨ c = .plugPilot ∧ (s.sec b).plugPilot = .opened) →
      exec (.clearTrip .shore [berthOctet b]) s =
        .next (emit (refusal .shore 0x11#8 .causePresent) (heard .shore s))) ∧
    ((∀ c ∈ (s.berth b).causes,
        (s.sec b).outletAux = .opened ∧ (s.sec b).couplerAux = .opened ∧
          (∀ e, (s.sec b).supervision ≠ .opening e) ∧
          (c = .emergencyStop → (s.sec b).emergencyStop = .closed) ∧
          (c = .plugPilot → (s.sec b).plugPilot = .closed)) →
      ∃ t, exec (.clearTrip .shore [berthOctet b]) s = .next t ∧ leavesOthers b (heard .shore s) t ∧
        t.sent.getLast? = some (doneReply .shore 0x11#8 []) ∧ (t.berth b).causes = [] ∧
        ((s.berth b).inService = true ∧ (s.berth b).linkLost = false ∧ (s.berth b).agreement ≠ none →
          (t.berth b).stage = .agreed ∧ (t.berth b).agreement = (s.berth b).agreement) ∧
        ((s.berth b).inService = true ∧ (s.berth b).linkLost = false ∧ (s.berth b).agreement = none ∧
            (s.sec b).plugPilot = .closed →
          (t.berth b).stage = .negotiating) ∧
        ((s.berth b).inService = false ∨ (s.berth b).linkLost = true ∨
            (s.berth b).agreement = none ∧ (s.sec b).plugPilot = .opened →
          (t.berth b).stage = .vacant ∧ (t.berth b).agreement = none))

/-- R35: a request page is resolved by frequency, voltage, power and role, in that order, and the first test that fails
gives the result; when all pass, the terms are the requested frequency and voltage, the smaller of wanted and offered kW,
the minimum and the role. The power test fails only when the offer lies below the minimum. -/
def Obligations.ResolutionTestsInOrder : Prop :=
  ∀ (o : Offer) (r : PageRequest),
    (o.frequencies.has r.frequency = false → resolve o r = (.badFrequency, none)) ∧
    (o.frequencies.has r.frequency = true → r.voltage ≠ o.voltage → resolve o r = (.badVoltage, none)) ∧
    (o.frequencies.has r.frequency = true → r.voltage = o.voltage → min r.wantedKw o.kw < r.minimumKw →
      resolve o r = (.badPower, none)) ∧
    (o.frequencies.has r.frequency = true → r.voltage = o.voltage → r.minimumKw ≤ min r.wantedKw o.kw →
      (roleOf r.preference o.preference = none → resolve o r = (.badRole, none)) ∧
      ∀ role, roleOf r.preference o.preference = some role →
        resolve o r =
          (.compatible,
            some { frequency := r.frequency, voltage := r.voltage, agreedKw := min r.wantedKw o.kw,
                   minimumKw := r.minimumKw, role := role })) ∧
    (r.minimumKw ≤ r.wantedKw → (resolve o r).1 = .badPower → o.kw < r.minimumKw) ∧
    (o.frequencies.has .hz50 = true ↔ o.frequencies ≠ .only60) ∧
    (o.frequencies.has .hz60 = true ↔ o.frequencies ≠ .only50)

/-- R36: the role table; the mode each role gives the reference in the parallel stages; FORM in SHORE_CARRYING whatever
the role. -/
def Obligations.RoleTable : Prop :=
  roleOf .formOnly .formOnly = none ∧ roleOf .formOnly .formPreferred = some .shipForms ∧
    roleOf .formOnly .followPreferred = some .shipForms ∧ roleOf .formOnly .followOnly = some .shipForms ∧
    roleOf .formPreferred .formOnly = some .shoreForms ∧ roleOf .formPreferred .formPreferred = some .shipForms ∧
    roleOf .formPreferred .followPreferred = some .shipForms ∧ roleOf .formPreferred .followOnly = some .shipForms ∧
    roleOf .followPreferred .formOnly = some .shoreForms ∧
    roleOf .followPreferred .formPreferred = some .shoreForms ∧
    roleOf .followPreferred .followPreferred = some .shipForms ∧
    roleOf .followPreferred .followOnly = some .shipForms ∧
    roleOf .followOnly .formOnly = some .shoreForms ∧ roleOf .followOnly .formPreferred = some .shoreForms ∧
    roleOf .followOnly .followPreferred = some .shoreForms ∧ roleOf .followOnly .followOnly = none ∧
    ∀ (b : Berth) (s : State),
      (∀ a, (s.berth b).agreement = some a →
        (a.role = .shipForms → ((enterParallel b s).reference b).mode = .follow) ∧
        (a.role = .shoreForms → ((enterParallel b s).reference b).mode = .form)) ∧
      ((enterShoreCarrying b s).reference b).mode = .form

/-- R33, R34, R37, R42, R43: a Request Page is clamped, resolved against the offer held and acted on: an incompatible
result leaves the berth in NEGOTIATING without an agreement, with its notice; a compatible one waits 10 s for
continuation pages, or at once takes the agreement and enters AGREED. The octets of the reply's payload are the model's
choice (log 23).

The reply standing behind all else that its request sends is the model's choice (log 6). -/
def Obligations.RequestPageIsResolvedAndActedOn : Prop :=
  ∀ (b : Berth) (f : Freq) (v : Volt) (wanted minimum : BitVec 16) (pref : RolePref) (more : Bool) (o : Offer)
      (s : State),
    s.asks (.ship b) b → (s.berth b).stage.mayNegotiate = true → (s.unit b).offer = some o →
    let kw := max 100 (min 32000 wanted.toNat)
    let least := min kw minimum.toNat
    let r : PageRequest := { frequency := f, voltage := v, wantedKw := kw, minimumKw := least, preference := pref,
                             more := more }
    ∃ t, exec (.requestPage (.ship b) ([freqOctet f, voltOctet v] ++ octets 2 wanted.toNat ++
          octets 2 minimum.toNat ++ [prefOctet pref] ++ flag more)) s = .next t ∧
      leavesOthers b (heard (.ship b) s) t ∧ (t.unit b).offer = some o ∧ (t.unit b).request = some r ∧
      (t.unit b).resolution = some (resolve o r).1 ∧ (t.unit b).pages = [] ∧ (t.unit b).lastMark = none ∧
      (t.berth b).holder = (s.berth b).holder ∧ (t.berth b).status = (s.berth b).status ∧
      t.pool = s.pool ∧ t.budget = s.budget ∧ t.ramps = s.ramps ∧ t.meters = s.meters ∧ t.records = s.records ∧
      ((resolve o r).1 ≠ .compatible →
        ((s.berth b).stage = .agreed → (t.berth b).agreement = none) ∧ (t.berth b).stage = .negotiating ∧
        (t.unit b).phase = .offered ∧ (t.unit b).terms = none ∧
        t.shoreSet (.negotiationIncompatible b) = true) ∧
      (∀ terms, resolve o r = (.compatible, some terms) → more = true →
        (t.berth b).stage = .negotiating ∧ (t.unit b).phase = .collecting ∧ (t.unit b).terms = some terms ∧
        (t.unit b).pageWait = some (s.now + 10 * 10000000)) ∧
      (∀ terms, resolve o r = (.compatible, some terms) → more = false →
        (t.berth b).stage = .agreed ∧ (t.unit b).phase = .concluded ∧ (t.unit b).pageWait = none ∧
        (t.berth b).agreement =
          some { frequency := f, voltage := v, agreedKw := terms.agreedKw, minimumKw := least, role := terms.role,
                 pages := [] }) ∧
      t.sent.getLast? = some (.reply (.ship b) 0x06#8
        (doneOr (decide (kw ≠ wanted.toNat) || decide (least ≠ minimum.toNat))) none (pageReply (t.unit b)))

/-- R38 to R40: in COLLECTING a repeat of the last accepted mark is answered again and changes nothing, a first page with
mark 1 is refused, and a new page is refused once four are stored, and otherwise appended: with more pages yes the wait
restarts at 10 s, with more pages no the agreement is taken with the list.

R41, R42: the expiry of the page wait in COLLECTING takes the agreement with the pages stored and the berth enters
AGREED; outside COLLECTING there is nothing to expire.

R38: in AGREED a page whose mark equals the last accepted mark is answered with the last page reply again and changes
nothing; any other page there, any page in NEGOTIATING outside COLLECTING, and any page in every other stage is refused
WRONG_STAGE (R5). Which reason refuses a page that breaks two rules, its stage and a field's values among them, is the
model's choice (log 13): the stage is judged first.

The reply standing behind all else that its request sends is the model's choice (log 6). An expiry's command carrying
the time forward to its moment is the model's choice (log 3). -/
def Obligations.ContinuationPagesAreCollectedUntilTaken : Prop :=
  (∀ (b : Berth) (kind : PageKind) (mark more : Bool) (text : List Byte) (s : State),
     s.asks (.ship b) b → (s.berth b).stage = .negotiating → (s.unit b).phase = .collecting →
     text.length ≤ 8 → (∀ c ∈ text, 0x20 ≤ c.toNat ∧ c.toNat ≤ 0x7E) →
     let command := Instr.continuationPage (.ship b) (pageKindOctet kind :: flag mark ++ textOctets text ++ flag more)
     (∀ ack : PageAck, (s.unit b).lastMark = some mark → (s.unit b).lastReply = some ack →
       exec command s = .next (emit (doneReply (.ship b) 0x07#8 (flag ack.mark)) (heard (.ship b) s))) ∧
     ((s.unit b).lastMark = none → mark = true →
       exec command s = .next (emit (refusal (.ship b) 0x07#8 .badValue) (heard (.ship b) s))) ∧
     ((s.unit b).lastMark ≠ some mark → ((s.unit b).lastMark = none → mark = false) → 4 ≤ (s.unit b).pages.length →
       exec command s = .next (emit (refusal (.ship b) 0x07#8 .tooMany) (heard (.ship b) s))) ∧
     ((s.unit b).lastMark ≠ some mark → ((s.unit b).lastMark = none → mark = false) → (s.unit b).pages.length < 4 →
       ∃ t, exec command s = .next t ∧ leavesOthers b (heard (.ship b) s) t ∧
         (t.unit b).pages = (s.unit b).pages ++ [{ kind := kind, text := text }] ∧ (t.unit b).lastMark = some mark ∧
         (t.unit b).lastReply = some { mark := mark } ∧ (t.unit b).terms = (s.unit b).terms ∧
         t.sent.getLast? = some (doneReply (.ship b) 0x07#8 (flag mark)) ∧
         t.pool = s.pool ∧ t.budget = s.budget ∧ t.meters = s.meters ∧ t.records = s.records ∧
         (more = true → (t.berth b).stage = .negotiating ∧ (t.unit b).phase = .collecting ∧
           (t.unit b).pageWait = some (s.now + 10 * 10000000)) ∧
         (more = false → (t.berth b).stage = .agreed ∧ (t.unit b).phase = .concluded ∧ (t.unit b).pageWait = none ∧
           (t.berth b).agreement = (s.unit b).terms.map fun x =>
             { frequency := x.frequency, voltage := x.voltage, agreedKw := x.agreedKw, minimumKw := x.minimumKw,
               role := x.role, pages := (s.unit b).pages ++ [{ kind := kind, text := text }] }))) ∧
  (∀ (b : Berth) (s : State), s.quiet →
     (∀ e terms, (s.unit b).phase = .collecting → (s.unit b).pageWait = some e → (s.unit b).terms = some terms →
       ∃ t, exec (.pageWaitExpiry b) s = .next t ∧ leavesOthers b (atExpiry e s) t ∧ (t.berth b).stage = .agreed ∧
         (t.unit b).phase = .concluded ∧ (t.unit b).pageWait = none ∧
         (t.berth b).agreement =
           some { frequency := terms.frequency, voltage := terms.voltage, agreedKw := terms.agreedKw,
                  minimumKw := terms.minimumKw, role := terms.role, pages := (s.unit b).pages } ∧
         t.pool = s.pool ∧ t.budget = s.budget ∧ t.meters = s.meters ∧ t.records = s.records) ∧
     ((s.unit b).phase ≠ .collecting → exec (.pageWaitExpiry b) s = .next (cleared s))) ∧
  (∀ (b : Berth) (kind mark more : Byte) (text : List Byte) (s : State), s.asks (.ship b) b → text.length = 9 →
     let command := Instr.continuationPage (.ship b) (kind :: mark :: text ++ [more])
     let wrong := Host.Outcome.next (emit (refusal (.ship b) 0x07#8 .wrongStage) (heard (.ship b) s))
     ((s.berth b).stage = .agreed → (∀ last, (s.unit b).lastMark = some last → [mark] ≠ flag last) →
       exec command s = wrong) ∧
     ((s.berth b).stage = .negotiating → (s.unit b).phase ≠ .collecting → exec command s = wrong) ∧
     ((s.berth b).stage ≠ .negotiating → (s.berth b).stage ≠ .agreed → exec command s = wrong)) ∧
  (∀ (b : Berth) (kind : PageKind) (last more : Bool) (text : List Byte) (ack : PageAck) (s : State),
     s.asks (.ship b) b → (s.berth b).stage = .agreed → (s.unit b).lastMark = some last →
     (s.unit b).lastReply = some ack → text.length ≤ 8 → (∀ c ∈ text, 0x20 ≤ c.toNat ∧ c.toNat ≤ 0x7E) →
     exec (.continuationPage (.ship b) (pageKindOctet kind :: flag last ++ textOctets text ++ flag more)) s =
       .next (emit (doneReply (.ship b) 0x07#8 (flag ack.mark)) (heard (.ship b) s)))

/-- R152, R150: Set Clock sets the harbour clock and clears clock-not-set, the next advance comes 1 s later, and a
pending table becomes the active one. Berth stages, modules, budget and settings stay.

R152, R142, R143, R144, R156, R157: where one berth alone has a connection open, its interval is marked CLOCK_SET; with
a slot free it is closed and its record written, and a new interval begins at the new clock value, marked CLOCK_SET;
with no slot free it is stretched and no record is written.

R160, R161, R163: the record's notices: RECORDS_AVAILABLE and COPIES_AVAILABLE where it joins an empty, armed queue, which
is then no longer armed, and the pool-low condition, set below 4 free slots with POOL_LOW on both links.

The reply standing behind all else that its request sends is the model's choice (log 6). -/
def Obligations.SetClockSetsTheClockAndSwapsTables : Prop :=
  ∀ (v : BitVec 32) (s : State), s.hears .shore →
    ∃ t, exec (.setClock .shore (octets 4 v.toNat)) s = .next t ∧ t.tariff.clock = v ∧ t.tariff.notSet = false ∧
      t.tariff.nextAdvance = s.now + 10000000 ∧ t.tariff.pending = none ∧
      (s.tariff.pending = none → t.tariff.active = s.tariff.active) ∧
      (∀ table, s.tariff.pending = some table →
        t.tariff.active = some table ∧ t.tariffSet .tariffActivated = true) ∧
      t.sent.getLast? = some (doneReply .shore 0x1C#8 []) ∧
      (∀ b, ((t.meter b).connected = (s.meter b).connected ∧ (t.meter b).terms = (s.meter b).terms) ∧
        (t.berth b).stage = (s.berth b).stage) ∧
      t.settings = s.settings ∧ t.pool = s.pool ∧ t.budget = s.budget ∧ t.units = s.units ∧ t.ramps = s.ramps ∧
      t.syncs = s.syncs ∧ t.sections = s.sections ∧ t.references = s.references ∧ t.capture = s.capture ∧
      t.port = s.port ∧ t.now = s.now ∧ t.pending = s.pending ∧
      ((∀ b, (s.meter b).connected = false) → t.records = s.records ∧ t.meters = s.meters) ∧
      ∀ b i, (s.meter b).connected = true → (∀ c, c ≠ b → (s.meter c).connected = false) →
        (s.meter b).interval = some i →
        (∀ slot rest, s.records.freeSlots = slot :: rest → (s.records.copyQueues.get b).length < 8 →
          ∃ r, isRecordOf b (s.meter b) { i with marks := { i.marks with clockSet := true } } r ∧
            writesInterval b r s t ∧ announcesRecord b s t ∧ poolLowFollows s t ∧ closedInto r (s.meter b) (t.meter b) ∧
            ∃ j, (t.meter b).interval = some j ∧ j.start = v ∧ j.elapsed = 0 ∧ j.merged = 0 ∧
              (j.band, j.rate) = ((bandAndRate t.tariff.active v).1, (bandAndRate t.tariff.active v).2.1) ∧
              j.marks = { Marks.clear with clockSet := true, noTariff := decide (t.tariff.active = none) }) ∧
        (s.records.freeSlots = [] → t.records = s.records ∧
          t.meter b = { s.meter b with
            interval := some { i with marks := { i.marks with clockSet := true, stretched := true },
                                      merged := min 255 (i.merged + 1) } })

/-- R175, R169: Set Berth Settings is refused BUSY outside VACANT; in VACANT all thirteen settings are replaced, each
numeric one kept within its range, and the reply is CLAMPED exactly when one was outside. The model's choice: the
settings are taken with the berth out of service too (log 12).

R176, R169: what Set Plant Setting does, setting by setting: the module rating and L wait for an idle plant, the four
others are taken at any time, each kept within its range, the module rating taken down to its step. R118, R115: headroom
that a new import limit leaves is offered to the waiting list from its head on. The model's choices: a
value of L outside its set is answered BAD_VALUE before BUSY (log 31), and L is carried in seconds (log 37). -/
def Obligations.SettingsAreReplacedByTheirRules : Prop :=
  (∀ (b : Berth) (f : OfferedFreqs) (v : Volt) (limit : Byte) (pref : RolePref) (maxRate : BitVec 16) (w : Byte)
       (slipMin slipMax target : BitVec 16) (k dv tc : Byte) (timeout : BitVec 16) (s : State), s.hears .shore →
     let command := Instr.setBerthSettings .shore ([berthOctet b, offeredOctet f, voltOctet v, limit, prefOctet pref] ++
       octets 2 maxRate.toNat ++ [w] ++ octets 2 slipMin.toNat ++ octets 2 slipMax.toNat ++ octets 2 target.toNat ++
       [k, dv, tc] ++ octets 2 timeout.toNat)
     let given : BerthSettings :=
       { frequencies := f, voltage := v, moduleLimit := limit.toNat, preference := pref, maxRate := maxRate.toNat,
         window := w.toNat, slipMin := slipMin.toInt, slipMax := slipMax.toNat, targetSlip := target.toNat,
         qualifyCount := k.toNat, voltTolerance := dv.toNat, closingTime := tc.toNat, syncTimeout := timeout.toNat }
     let taken : BerthSettings :=
       { frequencies := f, voltage := v, moduleLimit := max 1 (min 12 limit.toNat), preference := pref,
         maxRate := max 50 (min 2000 maxRate.toNat), window := max 10 (min 100 w.toNat),
         slipMin := max (-200) (min 200 slipMin.toInt), slipMax := max 20 (min 500 slipMax.toNat),
         targetSlip := max 10 (min 300 target.toNat), qualifyCount := max 1 (min 8 k.toNat),
         voltTolerance := max 1 (min 10 dv.toNat), closingTime := max 40 (min 250 tc.toNat),
         syncTimeout := max 30 (min 600 timeout.toNat) }
     ((s.berth b).stage ≠ .vacant →
       exec command s = .next (emit (refusal .shore 0x1D#8 .busy) (heard .shore s))) ∧
     ((s.berth b).stage = .vacant →
       exec command s =
         .next (emit (.reply .shore 0x1D#8 (doneOr (decide (taken ≠ given))) none [])
           { heard .shore s with settings := { s.settings with berths := s.settings.berths.set b taken } }))) ∧
  (∀ (v : BitVec 16) (s : State), s.hears .shore →
     let command := fun setting : Byte => Instr.setPlantSetting .shore (setting :: octets 2 v.toNat)
     let busy := Host.Outcome.next (emit (refusal .shore 0x1E#8 .busy) (heard .shore s))
     let bad := Host.Outcome.next (emit (refusal .shore 0x1E#8 .badValue) (heard .shore s))
     let rating := max 500 (min 4000 v.toNat) / 100 * 100
     let idle := (∀ b, (s.berth b).stage = .vacant) ∧
       ∀ m, (s.module m).state = .dark ∨ (s.module m).state = .ready ∨ (s.module m).state = .faulted
     (¬ idle → exec (command 0#8) s = busy) ∧
     (idle → exec (command 0#8) s =
       .next (emit (.reply .shore 0x1E#8 (doneOr (decide (rating ≠ v.toNat))) none [])
         { heard .shore s with settings := { s.settings with rating := rating } })) ∧
     (v.toNat ∉ [300, 600, 900, 1800, 3600] → exec (command 1#8) s = bad) ∧
     (v.toNat ∈ [300, 600, 900, 1800, 3600] → ¬ idle → exec (command 1#8) s = busy) ∧
     (v.toNat ∈ [300, 600, 900, 1800, 3600] → idle →
       exec (command 1#8) s = .next (emit (doneReply .shore 0x1E#8 [])
         { heard .shore s with settings := { s.settings with intervalLength := v.toNat } })) ∧
     (∃ t, exec (command 2#8) s = .next t ∧ t.settings = { s.settings with tSpace := max 5 (min 50 v.toNat) }) ∧
     (∃ t, exec (command 3#8) s = .next t ∧ t.settings = { s.settings with tCycle := max 10 (min 300 v.toNat) }) ∧
     (∃ t, exec (command 4#8) s = .next t ∧
       t.settings = { s.settings with importLimit := max 1000 (min 60000 v.toNat) } ∧
       t.budget.exceeded = decide (max 1000 (min 60000 v.toNat) < t.reserved) ∧
       (t.budget.reservations, t.budget.waiting) =
         served (max 1000 (min 60000 v.toNat)) s.budget.reservations s.budget.waiting ∧
       (∀ b, s.reservation b ≤ t.reservation b) ∧
       t.reserved ≤ max (max 1000 (min 60000 v.toNat)) s.reserved ∧ t.berths = s.berths ∧ t.pool = s.pool) ∧
     exec (command 5#8) s =
       .next (emit (.reply .shore 0x1E#8 (doneOr (decide (max 50 (min 1000 v.toNat) ≠ v.toNat))) none [])
         { heard .shore s with settings := { s.settings with threshold := max 50 (min 1000 v.toNat) } }) ∧
     ∀ setting : Byte, 5 < setting.toNat → exec (command setting) s = bad)

/-- R178, R2, R29, R47, R74, R85, R101, R112, R137: a Plant Reset is refused WRONG_STAGE unless every berth is VACANT,
AGREED or TRIPPED; when accepted it resets modules, references, synchronisers, ramps, budget and connections, keeps the
agreement of an AGREED berth whose inputs raise no cause, and keeps clock, tables, records, settings and sample port.

R2, R137: every berth is without summary reservation, sync-timeout hold, separation cause, stage timer and voltage
qualification; every channel is without terms, its accumulators and totals at 0, its missed count and held record kept.

R121, R178, R29, R70: each Protection section is reset but for its input levels; the Agreement Unit of a berth not AGREED
is reset, and holds a new offer where the berth passes on to NEGOTIATING; every link's flags and outstanding are cleared
and show then what the passing on and the first reading latch; the capture records are kept, the dead timers too (log 44,
deduced). The model's choice (log 19): the DISCHARGE messages, lowest-numbered module first, then the reply. -/
def Obligations.PlantResetResetsAllButWhatItKeeps : Prop :=
  ∀ s : State, s.hears .shore →
    ((∃ b, (s.berth b).stage.resettable = false) →
      exec (.plantReset .shore []) s = .next (emit (refusal .shore 0x20#8 .wrongStage) (heard .shore s))) ∧
    ((∀ b, (s.berth b).stage.resettable = true) →
      ∃ t, exec (.plantReset .shore []) s = .next t ∧
        t.settings = s.settings ∧ t.tariff = s.tariff ∧ t.records = s.records ∧ t.port = s.port ∧ t.now = s.now ∧
        t.pending = s.pending ∧ sameLevels s t ∧
        (allModules.map Sent.discharge ++ [doneReply .shore 0x20#8 []]) <+: t.sent ∧
        t.pool = ModulePool.reset s.elapsedMs ∧ t.budget = Budget.reset ∧ t.capture = s.capture ∧
        (∀ l, (t.links.get l).up = (s.links.get l).up ∧ (t.links.get l).mask = Links.carried l ∧
          (t.links.get l).outstanding = ((s.links.get l).up && decide ((t.links.get l).flags ≠ 0#64))) ∧
        (t.links.get .tariff).flags = 0#64 ∧
        let passes := fun b : Berth => (s.berth b).stage ≠ .agreed ∧ (s.berth b).inService = true ∧
          (s.berth b).linkLost = false ∧ (s.sec b).plugPilot = .closed
        let cause := fun b : Berth => (s.sec b).emergencyStop = .opened ∨ (s.sec b).outletAux = .closed
        ((∀ b, ¬ passes b ∧ ¬ cause b) → (t.links.get .shore).flags = 0#64) ∧
        ∀ b,
          (¬ passes b → ¬ cause b → (t.links.get (.ship b)).flags = 0#64) ∧
          (passes b ∨ cause b → t.shoreSet (.stage b) = true ∧ t.shipSet b .stage = true) ∧
          (cause b → t.shoreSet (.trip b) = true ∧ t.shipSet b .trip = true) ∧
          (¬ cause b → t.sec b = (s.sec b).afterReset) ∧
          (cause b → t.sec b = { (s.sec b).afterReset with
            couplerOpen := if (s.sec b).couplerAux = .closed then some (s.now + 200 * 10000) else none }) ∧
          ((s.berth b).stage = .agreed → t.unit b = s.unit b) ∧
          ((s.berth b).stage ≠ .agreed → ¬ passes b → t.unit b = AgreementUnit.reset) ∧
          (passes b → ¬ cause b →
            t.unit b = { AgreementUnit.reset with phase := .offered, offer := some (offerOf b s) }) ∧
          (passes b → cause b → t.unit b = { AgreementUnit.reset with offer := some (offerOf b s) }) ∧
          t.reference b = Reference.reset ∧ t.sync b = Synchroniser.reset ∧ t.ramp b = Ramp.reset ∧
          (t.meter b).connected = false ∧ (t.meter b).interval = none ∧ (t.meter b).terms = none ∧
          (t.meter b).delivered = 0 ∧ (t.meter b).reverse = 0 ∧ (t.meter b).totals = Totals.zero ∧
          (t.meter b).missed = (s.meter b).missed ∧ (t.meter b).held = (s.meter b).held ∧
          (t.berth b).summaryReserved = false ∧ (t.berth b).syncHold = false ∧ (t.berth b).separationCause = none ∧
          (t.berth b).stageTimer = none ∧ (t.berth b).qualification = none ∧ (t.berth b).inService = (s.berth b).inService ∧
          (t.berth b).linkLost = (s.berth b).linkLost ∧ (t.berth b).holder = .nobody ∧
          (t.berth b).pendingSince = none ∧ (t.berth b).status = none ∧ (t.berth b).moduleCount = 0 ∧
          ((s.sec b).emergencyStop = .closed ∧ (s.sec b).outletAux = .opened →
            (t.berth b).causes = [] ∧
            ((s.berth b).stage = .agreed →
              (t.berth b).stage = .agreed ∧ (t.berth b).agreement = (s.berth b).agreement ∧ t.unit b = s.unit b) ∧
            ((s.berth b).stage ≠ .agreed →
              (t.berth b).agreement = none ∧
              (t.berth b).stage =
                if (s.berth b).inService = true ∧ (s.berth b).linkLost = false ∧ (s.sec b).plugPilot = .closed then
                  .negotiating
                else .vacant)) ∧
          ((s.sec b).emergencyStop = .opened ∨ (s.sec b).outletAux = .closed → (t.berth b).stage = .tripped))

/-- R148: Load Tariff Table is refused on the shore and ship links; a table with 1 to 12 switch points, seconds at most
86,399 and ascending, bands 1 to 8, replaces the pending table and is answered DONE; one that breaks a condition is
refused BAD_VALUE and changes nothing. The active table is not changed. -/
def Obligations.LoadTariffTableReplacesThePendingTable : Prop :=
  ∀ (rates : List (BitVec 16)) (charge : BitVec 16) (points : List (BitVec 32 × Byte)) (padding : List Byte)
      (count : Byte) (s : State), rates.length = 8 →
    5 * points.length + padding.length = 60 → points.length = min 12 count.toNat →
    let payload := rates.flatMap (fun r => octets 2 r.toNat) ++ octets 2 charge.toNat ++ [count] ++
      points.flatMap (fun p => octets 4 p.1.toNat ++ [p.2]) ++ padding
    let table : TariffTable :=
      { rates := rates.map BitVec.toNat, charge := charge.toNat,
        points := points.map fun p => { second := p.1.toNat, band := p.2.toNat } }
    let good := 1 ≤ count.toNat ∧ count.toNat ≤ 12 ∧
      (∀ p ∈ points, p.1.toNat ≤ 86399 ∧ 1 ≤ p.2.toNat ∧ p.2.toNat ≤ 8) ∧
      points.Pairwise fun p q => p.1.toNat < q.1.toNat
    (∀ l, l ≠ .tariff → s.hears l →
      exec (.loadTariffTable l payload) s = .next (emit (refusal l 0x24#8 .notPermitted) (heard l s))) ∧
    (s.hears .tariff → good →
      exec (.loadTariffTable .tariff payload) s =
        .next (emit (doneReply .tariff 0x24#8 [])
          { heard .tariff s with tariff := { s.tariff with pending := some table } })) ∧
    (s.hears .tariff → ¬ good →
      exec (.loadTariffTable .tariff payload) s =
        .next (emit (refusal .tariff 0x24#8 .badValue) (heard .tariff s)))

/-- R162, R155, R159: Release Record of the head's number removes the head and lowers its slots' count, a count that
reaches 0 freeing the slot where no record is held, and the pool-low condition, where set, is cleared exactly when the
free count has come to 8 (R160); another number, or an empty queue, is refused BAD_VALUE.

R159: where records are held, a slot whose count reaches 0 takes the record at the held list's head instead, which is
numbered, joins the tariff queue and, where its copy is wanted, its berth's copy queue.

R164, R155, R159: Release Copy of the head's number removes the copy and lowers its slots' count; with the queue
empty it clears the missed copies whatever number it carries; another number is refused BAD_VALUE.

R154, R155: in every state the free, used and reserved counts of the Record Pool sum to 48.

The reply standing behind all else that its request sends is the model's choice (log 6). -/
def Obligations.ReleasesRemoveTheHeadAndFreeItsSlots : Prop :=
  (∀ (n : BitVec 16) (s : State), s.hears .tariff →
     (∀ r rest, s.records.tariffQueue = r :: rest → r.number = n → s.records.held = [] → r.second ≠ some r.first →
       ∃ t, exec (.releaseRecord .tariff (octets 2 n.toNat)) s = .next t ∧
         t = { heard .tariff s with links := t.links, records := t.records, sent := t.sent } ∧
         t.records.tariffQueue = rest ∧ t.records.copyQueues = s.records.copyQueues ∧
         t.records.nextNumber = s.records.nextNumber ∧
         (rest = [] → t.records.tariffArmed = true) ∧ (rest ≠ [] → t.records.tariffArmed = s.records.tariffArmed) ∧
         t.sent.getLast? = some (doneReply .tariff 0x26#8 []) ∧
         (∀ i, i ∉ r.slots → t.records.slots.get i = s.records.slots.get i) ∧
         (∀ i ∈ r.slots, ∀ number record count, s.records.slots.get i = .used number record count →
           t.records.slots.get i = if count ≤ 1 then .free else .used number record (count - 1)) ∧
         ((∃ i ∈ r.slots, ∃ number record, s.records.slots.get i = .used number record 1) → s.records.poolLow = true →
           t.records.poolLow = decide (t.records.freeSlotCount < 8))) ∧
     (∀ r rest h more x, s.records.tariffQueue = r :: rest → r.number = n → r.second = none →
       (∃ number record, s.records.slots.get r.first = .used number record 1) → s.records.held = h :: more →
       (s.meter h.berth).held = some x →
       (h.copyWanted = true → (s.records.copyQueues.get x.berth).length < 8) →
       let ref : RecordRef := { number := s.records.nextNumber, first := r.first, second := none }
       ∃ t, exec (.releaseRecord .tariff (octets 2 n.toNat)) s = .next t ∧ t.records.held = more ∧
         (t.meter h.berth).held = none ∧
         t.records.slots.get r.first =
           .used s.records.nextNumber (.interval x) (if h.copyWanted = true then 2 else 1) ∧
         (∀ i, i ≠ r.first → t.records.slots.get i = s.records.slots.get i) ∧
         t.records.nextNumber = s.records.nextNumber + 1#16 ∧ t.records.tariffQueue = rest ++ [ref] ∧
         (h.copyWanted = true →
           t.records.copyQueues.get x.berth = s.records.copyQueues.get x.berth ++ [ref]) ∧
         (h.copyWanted = false → t.records.copyQueues = s.records.copyQueues)) ∧
     ((∀ r rest, s.records.tariffQueue = r :: rest → r.number ≠ n) →
       exec (.releaseRecord .tariff (octets 2 n.toNat)) s =
         .next (emit (refusal .tariff 0x26#8 .badValue) (heard .tariff s)))) ∧
  (∀ (b : Berth) (n : BitVec 16) (s : State), s.hears (.ship b) →
     (∀ r rest, s.records.copyQueues.get b = r :: rest → r.number = n → s.records.held = [] →
       r.second ≠ some r.first →
       ∃ t, exec (.releaseCopy (.ship b) (octets 2 n.toNat)) s = .next t ∧
         t = { heard (.ship b) s with links := t.links, records := t.records, sent := t.sent } ∧
         t.records.copyQueues.get b = rest ∧ t.records.missedCopies.get b = 0 ∧
         t.records.tariffQueue = s.records.tariffQueue ∧
         (∀ c, c ≠ b → t.records.copyQueues.get c = s.records.copyQueues.get c ∧
           t.records.missedCopies.get c = s.records.missedCopies.get c) ∧
         (rest = [] → t.records.copyArmed.get b = true) ∧
         t.sent.getLast? = some (doneReply (.ship b) 0x28#8 []) ∧
         (∀ i, i ∉ r.slots → t.records.slots.get i = s.records.slots.get i) ∧
         ∀ i ∈ r.slots, ∀ number record count, s.records.slots.get i = .used number record count →
           t.records.slots.get i = if count ≤ 1 then .free else .used number record (count - 1)) ∧
     (s.records.copyQueues.get b = [] →
       exec (.releaseCopy (.ship b) (octets 2 n.toNat)) s =
         .next (emit (doneReply (.ship b) 0x28#8 [])
           { heard (.ship b) s with
             records := { s.records with missedCopies := s.records.missedCopies.set b 0 } })) ∧
     (∀ r rest, s.records.copyQueues.get b = r :: rest → r.number ≠ n →
       exec (.releaseCopy (.ship b) (octets 2 n.toNat)) s =
         .next (emit (refusal (.ship b) 0x28#8 .badValue) (heard (.ship b) s)))) ∧
  (∀ p : RecordPool, p.freeSlotCount + p.usedSlotCount + p.reservedSlotCount = 48)

/-- R56: Clear Module Fault is refused BAD_VALUE for a number outside 1 to 12 and WRONG_STAGE for a module not FAULTED; a
FAULTED module is sent DISCHARGE and loses its fault, and with nothing queued it is DARK with no berth, its last charge
start kept.

R51, R55, R60, R68: a charge timeout in CHARGING, and a Fault report outside FAULTED, put the module in FAULTED with
its cause, without timer, berth or place on the charge-start list, and latch MODULE_FAULT; a RUNNING module's berth, with
no READY module to replace it, counts one module fewer. A Fault report in FAULTED, and a timeout outside CHARGING, change
nothing. The model's choice (log 33, deduced): MODULE_LOST is latched for the module's berth whatever the berth's stage.

R66, R67, R108: a berth that loses a RUNNING module has the capacity of its module count, its setpoint is clamped to the
capacity of one module fewer, and each module it still runs carries its share of that setpoint.

R60, R61: a loss in ALLOCATING to RAMPING_OUT asks for one replacement: a REPLACEMENT entry of one module stands behind
the REPLACEMENT entries and ahead of all NEW ones, or the berth's REPLACEMENT entry wants one more in its place; it
stays while the queue's head finds too few modules, and a READY module serves it at once where the queue was empty. A
loss in any other stage leaves the queue.

The reply standing behind all else that its request sends is the model's choice (log 6). An expiry's command carrying
the time forward to its moment is the model's choice (log 3). -/
def Obligations.ModuleFaultsAreRecordedAndCleared : Prop :=
  (∀ (number : Byte) (s : State), s.hears .shore →
     (number.toNat = 0 ∨ 12 < number.toNat →
       exec (.clearModuleFault .shore [number]) s = .next (emit (refusal .shore 0x12#8 .badValue) (heard .shore s))) ∧
     ∀ m : ModuleId, m.val + 1 = number.toNat →
       ((s.module m).state ≠ .faulted →
         exec (.clearModuleFault .shore [number]) s =
           .next (emit (refusal .shore 0x12#8 .wrongStage) (heard .shore s))) ∧
       ((s.module m).state = .faulted →
         ∃ t, exec (.clearModuleFault .shore [number]) s = .next t ∧ (t.module m).fault = none ∧
           .discharge m ∈ t.sent ∧ t.sent.getLast? = some (doneReply .shore 0x12#8 []) ∧
           (s.pool.queue = [] ∧ s.pool.chargeList = [] →
             t = emit (doneReply .shore 0x12#8 []) (emit (.discharge m) ((heard .shore s).modModule m fun x =>
               { x with state := .dark, entryTime := s.elapsedMs, berth := none, fault := none, timer := none }))))) ∧
  (∀ (m : ModuleId) (code : Byte) (s : State), s.quiet →
     (∀ e, (s.module m).state = .charging → (s.module m).timer = some e →
       ∃ t, exec (.chargeTimeout m) s = .next t ∧ (t.module m).state = .faulted ∧
         (t.module m).fault = some .chargeTimeout ∧ (t.module m).berth = none ∧ (t.module m).timer = none ∧
         m ∉ t.pool.chargeList ∧ t.shoreSet .moduleFault = true ∧
         (∀ b, (s.module m).berth = some b → t.shipSet b .moduleLost = true) ∧ .discharge m ∉ t.sent) ∧
     ((s.module m).state ≠ .charging → exec (.chargeTimeout m) s = .next (cleared s)) ∧
     ((s.module m).state ≠ .faulted →
       ∃ t, exec (.faultReport m code) s = .next t ∧ (t.module m).state = .faulted ∧
         (t.module m).fault = some (.moduleReported code) ∧ (t.module m).berth = none ∧ (t.module m).timer = none ∧
         m ∉ t.pool.chargeList ∧ t.shoreSet .moduleFault = true ∧
         (∀ b, (s.module m).berth = some b → t.shipSet b .moduleLost = true) ∧
         (∀ b, (s.module m).state = .running → (s.module m).berth = some b → s.readyModules = [] →
           (t.berth b).moduleCount = (s.berth b).moduleCount - 1) ∧
         (∀ b, (s.module m).state = .running → (s.module m).berth = some b →
           (∀ k ∈ s.pool.chargeList, (s.module k).state = .dark) →
           let lowered := ((s.berth b).moduleCount - 1) * s.settings.rating
           (t.ramp b).capacity = (t.berth b).moduleCount * s.settings.rating ∧
             (s.readyModules = [] → (t.ramp b).capacity = lowered) ∧
             (t.ramp b).setpoint = min (s.ramp b).setpoint lowered ∧ sharesFollow b t) ∧
         ((s.module m).state = .dark ∧ (s.module m).berth = none ∧ s.pool.chargeList = [] →
           t.pool.queue = s.pool.queue ∧ t.berths = s.berths ∧ ∀ k, k ≠ m → t.module k = s.module k)) ∧
     ((s.module m).state = .faulted → exec (.faultReport m code) s = .next (cleared s))) ∧
  (∀ (m : ModuleId) (b : Berth) (command : Instr) (u s : State), s.quiet → (s.module m).berth = some b →
     (∃ code, command = .faultReport m code ∧ (s.module m).state ≠ .faulted ∧ u = cleared s) ∨
       (∃ e, command = .chargeTimeout m ∧ (s.module m).state = .charging ∧ (s.module m).timer = some e ∧
         u = atExpiry e s) →
     let lasting := (s.berth b).stage ∈ [.allocating, .energising, .synchronising, .parallel, .rampingIn,
       .shoreCarrying, .rampingOut]
     let free := u.readyModules.length + u.eligibleModules.length
     ∃ t, exec command s = .next t ∧
       (¬ lasting → t.pool.queue = s.pool.queue) ∧
       (lasting → s.hasEntry b = false →
         let queue := (s.pool.queue.filter fun e => decide (e.kind = .replacement)) ++
           { berth := b, wanted := 1, kind := .replacement, entered := u.elapsedMs } ::
           (s.pool.queue.filter fun e => decide (e.kind = .new))
         ((∀ e ∈ queue.head?, free < e.wanted) → t.pool.queue = queue) ∧
         ∀ k rest, s.pool.queue = [] → u.readyModules = k :: rest → k ∉ s.pool.chargeList →
           (s.module m).state ≠ .ready →
           t.pool.queue = [] ∧ (t.module k).state = .running ∧ (t.module k).berth = some b) ∧
       ∀ before e after, lasting → s.pool.queue = before ++ e :: after → e.berth = b → e.kind = .replacement →
         (∀ x ∈ before ++ after, x.berth ≠ b) →
         let queue := before ++ { e with wanted := e.wanted + 1 } :: after
         (∀ x ∈ queue.head?, free < x.wanted) → t.pool.queue = queue)

/-- R49: the charge start of the list's head takes it off the list, sends it CHARGE, puts it in CHARGING with its charge
timer at 20 s, and sets its own and the plant's last charge start to that moment; its berth stays. It comes no sooner
than T_space after the plant's last charge start and T_cycle after the module's own. With the list empty nothing is due.

R57, R62: when T_cycle passes for an unassigned DARK module the pool is re-examined, which with nothing queued and
nothing on the charge-start list changes no module's state.

An expiry's command carrying the time forward to its moment is the model's choice (log 3). -/
def Obligations.ChargeStartsKeepSpacingAndCycle : Prop :=
  (∀ s : State, s.quiet →
     (s.pool.chargeList = [] → exec .chargeStart s = .next (cleared s)) ∧
     ∀ m rest e, s.pool.chargeList = m :: rest → chargeStartDue s = some e →
       max s.now e / 10000 < 2 ^ 48 →
       s.pool.plantLastStart + s.settings.tSpace * 100 ≤ (atExpiry e s).elapsedMs ∧
       (s.module m).lastChargeStart + s.settings.tCycle * 1000 ≤ (atExpiry e s).elapsedMs ∧
       exec .chargeStart s =
         .next (emit (.charge m) (((atExpiry e s).modPool fun p =>
           { p with chargeList := rest, plantLastStart := (atExpiry e s).elapsedMs }).modModule m fun x =>
           { x with state := .charging, entryTime := (atExpiry e s).elapsedMs,
                    lastChargeStart := (atExpiry e s).elapsedMs,
                    timer := some ((atExpiry e s).now + 20 * 10000000), cycleOpen := true }))) ∧
  (∀ (m : ModuleId) (e : Nat) (s : State), s.quiet → cycleDue m s = some e →
     ∃ t, exec (.cycleTimePassed m) s = .next t ∧
       t = settleExceeded (examineQueue ((atExpiry e s).modModule m fun x => { x with cycleOpen := false })) ∧
       (s.pool.queue = [] ∧ s.pool.chargeList = [] →
         t = (atExpiry e s).modModule m fun x => { x with cycleOpen := false }))

/-- R50, R52, R53, R54: with nothing queued and nothing waiting for a charge start, the idle hold's expiry sends
DISCHARGE and leaves the module DARK, the drain timer's expiry leaves it READY with an idle hold of 300 s, and a Charged
report of a module without a grant does the same; a Charged report under a grant makes it RUNNING for its berth, which
counts one module more.

R61, R62, R64: with an entry queued, a module that becomes READY brings an examination: an entry that now finds modules
enough is granted whole, the module RUNNING at once where no other is READY, and an ALLOCATING berth whose modules then
all run has its stage timer stopped and its outlet commanded closed; an entry that does not find enough waits. A Charged
report that brings an ALLOCATING berth its last module, with no entry of its own queued, completes its allocation too.

R53, R67: a module entering RUNNING receives in its RUN the share it then holds, and the shares of the berth's RUNNING
modules are those of R67.

An expiry's command carrying the time forward to its moment is the model's choice (log 3). -/
def Obligations.ModulesMoveAtTheirTimersAndReports : Prop :=
  ∀ (m : ModuleId) (s : State), s.quiet →
    (∀ e, (s.module m).state = .ready → (s.module m).timer = some e → s.pool.queue = [] → s.pool.chargeList = [] →
      exec (.idleHoldExpiry m) s =
        .next (emit (.discharge m) ((atExpiry e s).modModule m fun x =>
          { x with state := .dark, entryTime := (atExpiry e s).elapsedMs, berth := none, fault := none,
                   timer := none }))) ∧
    (∀ e, (s.module m).state = .draining → (s.module m).timer = some e → s.pool.queue = [] → s.pool.chargeList = [] →
      exec (.drainExpiry m) s =
        .next ((atExpiry e s).modModule m fun x =>
          { x with state := .ready, entryTime := (atExpiry e s).elapsedMs, berth := none,
                   timer := some ((atExpiry e s).now + 300 * 10000000) })) ∧
    ((s.module m).state = .charging → (s.module m).berth = none → s.pool.queue = [] → s.pool.chargeList = [] →
      exec (.chargedReport m) s =
        .next ((cleared s).modModule m fun x =>
          { x with state := .ready, entryTime := s.elapsedMs, berth := none,
                   timer := some (s.now + 300 * 10000000) })) ∧
    (∀ b, (s.module m).state = .charging → (s.module m).berth = some b →
      ∃ t, exec (.chargedReport m) s = .next t ∧ (t.module m).state = .running ∧ (t.module m).berth = some b ∧
        (t.module m).timer = none ∧ (t.berth b).moduleCount = (s.berth b).moduleCount + 1 ∧
        (t.ramp b).capacity = ((s.berth b).moduleCount + 1) * s.settings.rating ∧
        (t.berth b).stage = (s.berth b).stage ∧ .run m b (t.module m).share ∈ t.sent ∧ sharesFollow b t ∧
        t.records = s.records ∧ t.meters = s.meters) ∧
    ((s.module m).state ≠ .charging → exec (.chargedReport m) s = .next (cleared s)) ∧
    (∀ b, (s.module m).state = .charging → (s.module m).berth = some b → (s.berth b).stage = .allocating →
      s.hasEntry b = false → (∀ k, k ≠ m → (s.module k).berth = some b → (s.module k).state = .running) →
      (s.sec b).outletCommand = .opened →
      ∃ t, exec (.chargedReport m) s = .next t ∧ (t.berth b).stageTimer = none ∧ t.pool.queue = s.pool.queue ∧
        t.sec b = { s.sec b with outletCommand := .closed, supervision := .closing (s.now + 300 * 10000) }) ∧
    ∀ (command : Instr) (moment : Nat) (e : QueueEntry),
      command = .drainExpiry m ∧ (s.module m).state = .draining ∧ (s.module m).timer = some moment ∨
        command = .chargedReport m ∧ (s.module m).state = .charging ∧ (s.module m).berth = none ∧ moment = s.now →
      s.pool.queue = [e] → s.pool.chargeList = [] →
      let u := atExpiry moment s
      (u.readyModules.length + 1 + u.eligibleModules.length < e.wanted →
        exec command s = .next (u.modModule m fun x =>
          { x with state := .ready, entryTime := u.elapsedMs, berth := none, timer := some (u.now + 300 * 10000000) })) ∧
      (e.wanted ≤ u.readyModules.length + 1 + u.eligibleModules.length →
        ∃ t, exec command s = .next t ∧ t.pool.queue = [] ∧
          (t.berth e.berth).moduleCount =
            (s.berth e.berth).moduleCount + min e.wanted (u.readyModules.length + 1) ∧
          (0 < e.wanted → sharesFollow e.berth t) ∧
          (e.wanted = 1 → u.readyModules = [] →
            (t.module m).state = .running ∧ (t.module m).berth = some e.berth ∧ (t.module m).timer = none ∧
            .run m e.berth (t.module m).share ∈ t.sent ∧
            ((s.berth e.berth).stage = .allocating → (s.sec e.berth).outletCommand = .opened →
              (∀ k, k ≠ m → (s.module k).berth = some e.berth → (s.module k).state = .running) →
              (t.berth e.berth).stageTimer = none ∧
              t.sec e.berth = { s.sec e.berth with outletCommand := .closed,
                                                   supervision := .closing (u.now + 300 * 10000) })))

/-- R67: the shares of n RUNNING modules sum to the setpoint, and no two differ by more than 1 kW: the quotient q, and q
+ 1 for as many of the first places as the remainder.

R67: a recomputation writes these shares into the table entries of the berth's RUNNING modules, the lowest-numbered
first, changes nothing else, and sends SHARE with the new share to exactly those modules whose share has changed, the
lowest-numbered first, the model's order (log 32). A change of the setpoint brings a recomputation. -/
def Obligations.SharesSumToTheSetpoint : Prop :=
  (∀ setpoint n : Nat, 0 < n →
    ((List.range n).map (shareAt setpoint n)).sum = setpoint ∧
      (∀ i j, i < n → j < n → shareAt setpoint n i ≤ shareAt setpoint n j + 1) ∧
      ∀ i, (i < setpoint % n → shareAt setpoint n i = setpoint / n + 1) ∧
        (setpoint % n ≤ i → shareAt setpoint n i = setpoint / n)) ∧
  (∀ (b : Berth) (s : State),
    let t := recomputeShares b s
    (∀ m, m ∈ s.runningOf b ↔ (s.module m).state = .running ∧ (s.module m).berth = some b) ∧
    (s.runningOf b).Pairwise (fun m k => m < k) ∧ t.runningOf b = s.runningOf b ∧ sharesFollow b t ∧
    (∀ m ∈ s.runningOf b, t.module m = { s.module m with share := (t.module m).share }) ∧
    (∀ m, m ∉ s.runningOf b → t.module m = s.module m) ∧
    t = { s with pool := { s.pool with modules := t.pool.modules }, sent := t.sent } ∧
    t.sent = s.sent ++ (((s.runningOf b).filter fun m => decide ((t.module m).share ≠ (s.module m).share)).map fun m =>
      Sent.share m (t.module m).share)) ∧
  (∀ (b : Berth) (v : Nat) (s : State),
    ((s.ramp b).setpoint = v → setSetpoint b v s = s) ∧
    ((s.ramp b).setpoint ≠ v → ((setSetpoint b v s).ramp b).setpoint = v ∧ sharesFollow b (setSetpoint b v s)))

/-- R74: a reference crossing sends one REFERENCE message with the berth, the mode and the word, and changes nothing else
(but the count of crossings owed, log 30); a stopped reference sends none.

R74: from the moment a crossing is due the accumulator has carried: a running reference whose word is not 0 carries
at its due tick and not before.

R74 (the place of the messages is the model's choice, log 30): while time passes a running reference sends one REFERENCE
message for each crossing owed and for each carry before the last tick, and none is lost; a stopped one sends none.

An expiry's command carrying the time forward to its moment is the model's choice (log 3). -/
def Obligations.ReferenceCrossingsFollowTheCarry : Prop :=
  (∀ (b : Berth) (s : State), s.quiet →
     (∀ e, crossingDue b s = some e →
       exec (.referenceCrossing b) s =
         .next (emit (.reference b (s.reference b).mode (s.reference b).word)
           ((atExpiry e s).modReference b fun r => { r with owed := r.owed - 1 }))) ∧
     ((s.reference b).mode = .stopped → exec (.referenceCrossing b) s = .next (cleared s))) ∧
  (∀ (b : Berth) (e : Nat) (s : State), (s.reference b).owed = 0 → crossingDue b s = some e →
     s.now < e ∧ 0 < ((advance (e - s.now) s).reference b).owed ∧
       ∀ dt, dt < e - s.now → ((advance dt s).reference b).owed = 0) ∧
  (∀ (b : Berth) (dt : Nat) (s : State), 0 < dt →
     let r := s.reference b
     let message := Sent.reference b r.mode r.word
     (r.mode ≠ .stopped →
       (advance dt s).sent.count message =
         s.sent.count message + r.owed + (r.accumulator.toNat + r.word.toNat * (dt - 1)) / 2 ^ 32) ∧
     (r.mode = .stopped → (advance dt s).sent.count message = s.sent.count message))

/-- R71: a period is valid from 140,000 to 240,000 ticks inclusive; its frequency in mHz is 10^10 by the period, rounded
half up, and absent for an invalid period. -/
def Obligations.PeriodFrequencyIsRoundedHalfUp : Prop :=
  (∀ p : BitVec 32, periodValid p = true ↔ 140000 ≤ p.toNat ∧ p.toNat ≤ 240000) ∧
    (∀ p : BitVec 32, periodValid p = false → periodFrequency p = none) ∧
    (∀ p : BitVec 32, periodValid p = true →
      ∃ f, periodFrequency p = some f ∧ 2 * f * p.toNat ≤ 2 * 10000000000 + p.toNat ∧
        2 * 10000000000 < 2 * f * p.toNat + p.toNat) ∧
    periodFrequency 140000#32 = some 71429 ∧ periodFrequency 166667#32 = some 60000 ∧
    periodFrequency 200000#32 = some 50000 ∧ periodFrequency 240000#32 = some 41667 ∧
    ∀ (stamp : TimeStamp) (at_ : Nat) (r : CaptureRecord) (l : TimeStamp), r.latest = some l →
      (r.capture stamp at_).latest = some stamp ∧ (r.capture stamp at_).previous = some l ∧
      (r.capture stamp at_).period = some (stamp - l) ∧ (r.capture stamp at_).valid = periodValid (stamp - l)

/-- R70: an edge less than 1 ms after the latest crossing is disregarded; any other edge is captured: previous, latest,
period, validity and frequency follow, the input is LIVE and its dead timer restarts from the edge. The model's choice
(log 24): an edge stamped less than 2^31 ticks ahead carries the time forward to its stamp.

R72, R73 (the order is the model's, log 24): an edge stamped after the dead timer's expiry finds the input DEAD, so no
period spans the declaration; what a DEAD input does to its consumers is done first.

R72, R80, R92: at its dead timer's expiry an input is DEAD with nothing held; a dead ship bus sets a running
Synchroniser's count to 0, and latches SHIP_BUS_DEAD while the buses are joined; a stopped timer does nothing.

An expiry's command carrying the time forward to its moment is the model's choice (log 3). -/
def Obligations.CrossingsAndDeadTimersRuleTheInput : Prop :=
  (∀ (side : BusSide) (b : Berth) (dt : Nat) (s : State), s.quiet → dt < 2 ^ 31 →
     let stamp := BitVec.ofNat 32 (s.now + dt)
     let deadAt := s.now + dt + if s.agreedFreq b = .hz50 then 400000 else 333334
     ((∀ e, (s.input side b).deadTimer = some e → s.now + dt ≤ e) →
       (∀ l, (s.input side b).latest = some l → (stamp - l).toNat < 10000 →
         exec (.zeroCrossing side b stamp) s = .next (advance dt (cleared s))) ∧
       ((∀ l, (s.input side b).latest = some l → 10000 ≤ (stamp - l).toNat) →
         ∃ t, exec (.zeroCrossing side b stamp) s = .next t ∧ t.now = s.now + dt ∧
           (t.input side b).latest = some stamp ∧ (t.input side b).previous = (s.input side b).latest ∧
           (t.input side b).period = (s.input side b).latest.map (fun l => stamp - l) ∧
           (t.input side b).valid = ((s.input side b).latest.map (fun l => periodValid (stamp - l))).getD false ∧
           (t.input side b).live = true ∧
           (t.input side b).frequency = (s.input side b).latest.bind (fun l => periodFrequency (stamp - l)) ∧
           (t.input side b).deadTimer = some deadAt ∧
           (∀ side' c, (side', c) ≠ (side, b) → t.input side' c = s.input side' c) ∧
           t.settings = s.settings ∧ t.port = s.port ∧ t.tariff = s.tariff ∧ t.meters = s.meters ∧
           t.sections = s.sections)) ∧
     (∀ e, (s.input side b).deadTimer = some e → e < s.now + dt →
       ∃ t, exec (.zeroCrossing side b stamp) s = .next t ∧ t.now = s.now + dt ∧
         (t.input side b).latest = some stamp ∧ (t.input side b).previous = none ∧
         (t.input side b).period = none ∧ (t.input side b).valid = false ∧ (t.input side b).frequency = none ∧
         (t.input side b).live = true ∧ (t.input side b).deadTimer = some deadAt ∧
         (∀ side' c, (side', c) ≠ (side, b) → t.input side' c = s.input side' c) ∧
         (side = .ship → (s.sync b).running = true → (t.sync b).count = 0) ∧
         (side = .ship → (s.berth b).stage.noticesDeadBus = true →
           t.shoreSet (.shipBusDead b) = true ∧ t.shipSet b .shipBusDead = true) ∧
         t.settings = s.settings ∧ t.port = s.port ∧ t.tariff = s.tariff ∧ t.meters = s.meters ∧
         t.sections = s.sections)) ∧
  (∀ (side : BusSide) (b : Berth) (s : State), s.quiet →
     (∀ e, (s.input side b).deadTimer = some e →
       ∃ t, exec (.deadTimerExpiry side b) s = .next t ∧ t.now = max s.now e ∧
         (t.input side b).live = false ∧ (t.input side b).latest = none ∧ (t.input side b).previous = none ∧
         (t.input side b).period = none ∧ (t.input side b).valid = false ∧ (t.input side b).frequency = none ∧
         (t.input side b).deadTimer = none ∧
         (∀ side' c, (side', c) ≠ (side, b) → t.input side' c = s.input side' c) ∧
         (side = .ship → (s.sync b).running = true → (t.sync b).count = 0) ∧
         (side = .ship → (s.berth b).stage.noticesDeadBus = true →
           t.shoreSet (.shipBusDead b) = true ∧ t.shipSet b .shipBusDead = true) ∧
         (side = .outlet → t.links = s.links ∧ t.syncs = s.syncs) ∧
         t.berths = s.berths ∧ t.units = s.units ∧ t.pool = s.pool ∧ t.port = s.port ∧ t.ramps = s.ramps ∧
         t.budget = s.budget ∧ t.sections = s.sections ∧ t.meters = s.meters ∧ t.records = s.records ∧
         t.tariff = s.tariff ∧ t.settings = s.settings) ∧
     ((s.input side b).deadTimer = none → exec (.deadTimerExpiry side b) s = .next (cleared s)))

/-- R78, R79, R75: a ship crossing with a valid period sets the commanded frequency in TRIM to the ship's plus the
target slip, and in FOLLOW to the ship's, kept within 2 % of nominal, with its word; in FOLLOW it moves the accumulator
by 1,193,046 toward the ship's phase: up where the shore output lags, a carry sending its REFERENCE message, down, to 0
at least, where it leads, and not at all where the phase is 0. In FREE and FORM, and without a valid period, nothing
changes.

R75: the word of a frequency in mHz is that frequency times 2^32 by 10^10, rounded half up: 21,475 at 50,000 mHz and
25,770 at 60,000 mHz.

R73, R78, R79: a captured edge of a LIVE ship input does this to its berth's reference (the time carried forward to the
edge's stamp is the model's choice, log 24). -/
def Obligations.ShipCrossingsTrimAndFollow : Prop :=
  (∀ (b : Berth) (f : Nat) (s : State),
     let range := (s.agreedFreq b).range
     let t := shipCrossingAtReference b (some f) s
     ((s.reference b).mode = .trim →
       let given := f + (s.setting b).targetSlip
       let kept := max range.1 (min range.2 given)
       t = s.modReference b fun r =>
         { r with commanded := some kept, clamped := decide (given < range.1 ∨ range.2 < given),
                  word := frequencyWord kept }) ∧
     ((s.reference b).mode = .follow →
       let kept := max range.1 (min range.2 f)
       let old := (s.reference b).accumulator.toNat
       let phase := (old * 3600 + 2 ^ 31) / 2 ^ 32 % 3600
       t = { s with references := t.references, sent := t.sent } ∧
       (∀ c, c ≠ b → t.reference c = s.reference c) ∧ (t.reference b).commanded = some kept ∧
       (t.reference b).clamped = decide (kept ≠ f) ∧ (t.reference b).word = frequencyWord kept ∧
       (t.reference b).mode = .follow ∧ (t.reference b).owed = (s.reference b).owed ∧
       (t.reference b).accumulator.toNat =
         (if phase = 0 then old else if phase ≤ 1800 then old - 1193046 else (old + 1193046) % 2 ^ 32) ∧
       t.sent = s.sent ++
         (if 1800 < phase ∧ 2 ^ 32 ≤ old + 1193046 then [.reference b .follow (frequencyWord kept)] else [])) ∧
     ((s.reference b).mode = .free ∨ (s.reference b).mode = .form ∨ (s.reference b).mode = .stopped → t = s) ∧
     shipCrossingAtReference b none s = s) ∧
  (∀ f : Nat, f ≤ 100000 →
     let word := (frequencyWord f).toNat
     2 * 10000000000 * word ≤ 2 * f * 2 ^ 32 + 10000000000 ∧
       2 * f * 2 ^ 32 + 10000000000 < 2 * 10000000000 * (word + 1)) ∧
  frequencyWord 50000 = 21475#32 ∧ frequencyWord 60000 = 25770#32 ∧
  (∀ (b : Berth) (dt : Nat) (l : TimeStamp) (s : State), s.quiet → dt < 2 ^ 31 →
     let stamp := BitVec.ofNat 32 (s.now + dt)
     (s.input .ship b).live = true → (∀ e, (s.input .ship b).deadTimer = some e → s.now + dt ≤ e) →
     (s.input .ship b).latest = some l → 10000 ≤ (stamp - l).toNat →
     let u := shipCrossingAtReference b (periodFrequency (stamp - l)) (advance dt (cleared s))
     ∃ t, exec (.zeroCrossing .ship b stamp) s = .next t ∧
       t = { u with capture := t.capture } ∧ ∀ side c, (side, c) ≠ (.ship, b) → t.input side c = s.input side c)

/-- R81, R82, R83: a strobe counts up modulo 256 and awaits the new count, with no frame taken; if the period before it
was awaited and no frame taken for it, every age and the missing count rise by 1, saturating, the last values stay, and
the 100th in a row latches SAMPLE_PORT_SILENT.

R141, R12: a missing period raises a channel's missed-frame count; with a connection open, up to the fifth the last power
is accumulated again, in the accumulator of its sign, and the interval marked ESTIMATED, later or without last values it
is marked GAP; a berth in ENERGISING loses its voltage qualification.

An expiry's command carrying the time forward to its moment is the model's choice (log 3). -/
def Obligations.StrobeClosesThePeriod : Prop :=
  ∀ s : State, s.quiet →
    ∃ t, exec .sampleStrobe s = .next t ∧ t.now = max s.now s.port.nextStrobe ∧
      t.port.strobeCount = s.port.strobeCount + 1#8 ∧ t.port.awaited = some (s.port.strobeCount + 1#8) ∧
      t.port.taken = false ∧ t.port.nextStrobe = s.port.nextStrobe + 100000 ∧ t.port.last = s.port.last ∧
      t.port.badFrames = s.port.badFrames ∧ t.port.lateFrames = s.port.lateFrames ∧
      t.port.duplicates = s.port.duplicates ∧
      (s.port.awaited ≠ none ∧ s.port.taken = false →
        t.port.missing = min 65535 (s.port.missing + 1) ∧
        (s.port.missing = 99 → t.shoreSet .samplePortSilent = true) ∧
        (s.port.missing ≠ 99 → t.links = s.links) ∧
        ∀ b, t.port.age.get b = min 65535 (s.port.age.get b + 1) ∧
          t.berth b =
            (if (s.berth b).stage = .energising then { s.berth b with qualification := none } else s.berth b) ∧
          (t.meter b).missed = min 65535 ((s.meter b).missed + 1) ∧
          ((s.meter b).connected = false →
            t.meter b = { s.meter b with missed := min 65535 ((s.meter b).missed + 1) }) ∧
          ((s.meter b).connected = true → 5 ≤ (s.meter b).missed ∨ s.port.last.get b = none →
            t.meter b =
              { s.meter b with
                missed := min 65535 ((s.meter b).missed + 1),
                interval := (s.meter b).interval.map fun i => { i with marks := { i.marks with gap := true } } }) ∧
          (∀ v, (s.meter b).connected = true → (s.meter b).missed < 5 → s.port.last.get b = some v →
            (s.meter b).delivered + 2 ^ 31 < 2 ^ 64 → (s.meter b).reverse + 2 ^ 31 < 2 ^ 64 →
            t.meter b =
              { s.meter b with
                missed := (s.meter b).missed + 1, delivered := (s.meter b).delivered + v.power.toInt.toNat,
                reverse := (s.meter b).reverse + (-v.power.toInt).toNat,
                interval :=
                  (s.meter b).interval.map fun i => { i with marks := { i.marks with estimated := true } } })) ∧
      (s.port.awaited = none ∨ s.port.taken = true →
        t.port.missing = s.port.missing ∧ t.port.age = s.port.age ∧ t.meters = s.meters ∧ t.links = s.links ∧
        t.berths = s.berths) ∧
      (∀ b, (t.berth b).stage = (s.berth b).stage) ∧ t.settings = s.settings ∧ t.tariff = s.tariff ∧
      t.pool = s.pool ∧ t.budget = s.budget ∧ t.ramps = s.ramps ∧ t.records = s.records

/-- R82, R81: a frame of another length or with a wrong check, a late frame, or a second one for its period raises its
own count and changes nothing else; a frame taken replaces every berth's last values, with ages and missing count 0 (the
layout of a frame's 27 octets is the model's choice, log 40).

R140: a frame taken adds its power to the accumulator of its sign of every connection that is open and stays open with
it, in RAMPING_OUT too; only a separation at setpoint 0 with the coupler open ends one.

R111, R117, R119, R67: in SHORE_CARRYING the setpoint follows the measured kW within capacity and agreed kW, the
shares follow its change, the reservation follows it up, power above capacity latches OVERLOAD_WARN and above 110 %
starts the 10 s overload timer, else stopped.

R107, R12: in RAMPING_OUT at setpoint 0 power within the threshold separates the berth, a HELD ramp's too, the model's
choice (log 43); in ENERGISING the outlet voltage within its tolerance starts the qualification or keeps it, else
removes it, and after 1 s of it, with the ship bus LIVE and no hold, the berth enters SYNCHRONISING. A voltage exactly
dV per cent away counts as within the tolerance, the model's reading (log 36). -/
def Obligations.BusFramesAreJudgedInOrder : Prop :=
  (∀ (strobe outlet shipBus power check : List Byte) (s : State), s.quiet →
     let os := strobe ++ outlet ++ shipBus ++ power ++ check
     os.length ≠ 27 ∨ os.drop 25 ≠ crcOctets (os.take 25) →
     exec (.busFrame strobe outlet shipBus power check) s =
       .next ((cleared s).modPort fun p => { p with badFrames := min 65535 (p.badFrames + 1) })) ∧
  (∀ (strobe outlet shipBus power check : List Byte) (echo : BitVec 8) (values : PerBerth BusValues) (s : State),
     s.quiet → strobe ++ outlet ++ shipBus ++ power ++ check = busFrameOctets echo values →
     let command := Instr.busFrame strobe outlet shipBus power check
     (s.port.awaited ≠ some echo →
       exec command s =
         .next ((cleared s).modPort fun p => { p with lateFrames := min 65535 (p.lateFrames + 1) })) ∧
     (s.port.awaited = some echo → s.port.taken = true →
       exec command s =
         .next ((cleared s).modPort fun p => { p with duplicates := min 65535 (p.duplicates + 1) })) ∧
     (s.port.awaited = some echo → s.port.taken = false →
       ∃ t, exec command s = .next t ∧ t.now = s.now ∧
         t.port = { s.port with taken := true, last := ⟨some values.a, some values.b, some values.c⟩, age := .same 0,
                                missing := 0, frameTime := s.port.strobeTime } ∧
         t.settings = s.settings ∧ t.tariff = s.tariff ∧ sameLevels s t ∧
         ∀ b,
           let v := values.get b
           let kw := (measuredKw v.power).toNat
           (t.meter b).missed = 0 ∧
           ((s.berth b).stage ≠ .rampingOut →
             (t.berth b).holder = (s.berth b).holder ∧ (t.berth b).agreement = (s.berth b).agreement ∧
             ((t.berth b).stage = (s.berth b).stage ∨
               (s.berth b).stage = .energising ∧ (t.berth b).stage = .synchronising)) ∧
           ((s.meter b).connected = false →
             (t.meter b).delivered = (s.meter b).delivered ∧ (t.meter b).reverse = (s.meter b).reverse) ∧
           ((s.berth b).stage ≠ .rampingOut ∨ (s.ramp b).setpoint ≠ 0 ∨ (s.sec b).couplerAux = .closed ∨
               s.settings.threshold < (measuredKw v.power).natAbs →
             (t.meter b).connected = (s.meter b).connected) ∧
           ((s.meter b).connected = true → (t.meter b).connected = true →
             (s.meter b).delivered + 2 ^ 31 < 2 ^ 64 → (s.meter b).reverse + 2 ^ 31 < 2 ^ 64 →
             (t.meter b).delivered = (s.meter b).delivered + v.power.toInt.toNat ∧
             (t.meter b).reverse = (s.meter b).reverse + (-v.power.toInt).toNat) ∧
           ((s.berth b).stage = .shoreCarrying → (∀ c, (s.berth c).stage ≠ .rampingOut) →
             (t.ramp b).setpoint = min kw (min (s.ramp b).capacity (s.agreedKw b)) ∧
             (t.ramp b).wanted = (t.ramp b).setpoint ∧ (t.ramp b).target = (t.ramp b).setpoint ∧
             ((t.ramp b).setpoint ≠ (s.ramp b).setpoint → sharesFollow b t) ∧
             t.reservation b = (if s.reservation b < kw then min kw 65535 else s.reservation b) ∧
             (t.sec b).overCapacity = decide (((s.ramp b).capacity : Int) * 1000 < v.power.toInt) ∧
             ((s.sec b).overCapacity = false → (t.sec b).overCapacity = true →
               t.shoreSet (.overloadWarn b) = true ∧ t.shipSet b .overloadWarn = true) ∧
             (t.sec b).overloadTimer =
               (if ((s.ramp b).capacity : Int) * 110000 < v.power.toInt * 100 then
                 some ((s.sec b).overloadTimer.getD (s.now + 10 * 10000000))
               else none)) ∧
           ((s.berth b).stage = .rampingOut → s.settings.threshold < (measuredKw v.power).natAbs →
             (t.berth b).stage = .rampingOut) ∧
           ((s.berth b).stage = .rampingOut → (s.ramp b).setpoint = 0 → (s.sec b).couplerAux = .closed →
             (measuredKw v.power).natAbs ≤ s.settings.threshold →
             (t.berth b).stage = .separating ∧ (t.berth b).separationCause = some .normal ∧
             (t.reference b).mode = .form ∧
             (t.sec b).couplerOpen = some ((s.sec b).couplerOpen.getD (s.now + 200 * 10000))) ∧
           ((s.berth b).stage = .energising →
             let volts := (s.agreedVolt b).volts
             let inRange := (max v.outlet.toNat volts - min v.outlet.toNat volts) * 100 ≤
               (s.setting b).voltTolerance * volts
             let since := (s.berth b).qualification.getD s.port.strobeTime
             (t.berth b).qualification = (if inRange then some since else none) ∧
             (t.berth b).stage =
               if inRange ∧ since + 10000000 ≤ s.port.strobeTime ∧ (s.input .ship b).live = true ∧
                   (s.berth b).syncHold = false then
                 .synchronising
               else .energising)))

/-- R88, R89: the phase angle is the delay's fraction of the ship cycle in tenths of a degree, rounded half up and
brought into −1800 to +1799; the advance angle is slip times closing time times 36 by 10,000, rounded half away from
zero with the slip's sign; any angle, the predicted one among them, is brought into the same range by whole turns.

R91: the seven tests of a crossing, in order; a crossing that passes all of them qualifies.

R87 to R91: what a computation at an outlet crossing gives. The ship crossing is the latest, or the previous where the
latest lies after the outlet's; it ends SHIP_NOT_LIVE with the ship bus DEAD, its period absent or not valid, or no such
crossing; LATE_SHIP_CROSSING with a delay of a period or more; NO_OUTLET_PERIOD without an outlet frequency;
VOLTAGE_STALE with the last values absent or older than 5 strobes; otherwise with the verdict of the seven tests, of its
slip, its predicted angle, its voltage difference and the ship's frequency. A field that it did not reach is absent; which
those are is the model's choice (log 25). -/
def Obligations.CrossingsAreJudgedInOrderByRoundedAngles : Prop :=
  ((∀ delay period : Nat, 0 < period → delay < period →
     -1800 ≤ phaseAngle delay period ∧ phaseAngle delay period ≤ 1799 ∧
       ∃ n : Nat, n * period ≤ 3600 * delay + period / 2 ∧ 3600 * delay + period / 2 < (n + 1) * period ∧
         (phaseAngle delay period = n ∨ phaseAngle delay period = (n : Int) - 3600)) ∧
     (∀ (slip : Int) (closing : Nat),
       let n := (advanceAngle slip closing).natAbs
       10000 * n ≤ slip.natAbs * closing * 36 + 5000 ∧ slip.natAbs * closing * 36 + 5000 < 10000 * (n + 1) ∧
         (0 ≤ slip → 0 ≤ advanceAngle slip closing) ∧ (slip ≤ 0 → advanceAngle slip closing ≤ 0)) ∧
     ∀ v : Int, -1800 ≤ wrapAngle v ∧ wrapAngle v ≤ 1799 ∧ (wrapAngle v - v) % 3600 = 0) ∧
  (∀ (inFlight check : Bool) (g : BerthSettings) (volt : Volt) (freq : Freq) (slip predicted : Int) (d f : Nat),
     let verdict := judgeCrossing inFlight check g volt freq slip predicted d f
     let range := freq.range
     (inFlight = true → verdict = .closeInFlight) ∧
     (inFlight = false → slip < g.slipMin → verdict = .slipLow) ∧
     (inFlight = false → g.slipMin ≤ slip → (g.slipMax : Int) < slip → verdict = .slipHigh) ∧
     (inFlight = false → g.slipMin ≤ slip → slip ≤ g.slipMax → g.window < predicted.natAbs → verdict = .angle) ∧
     (inFlight = false → g.slipMin ≤ slip → slip ≤ g.slipMax → predicted.natAbs ≤ g.window →
       g.voltTolerance * volt.volts < d * 100 → verdict = .voltage) ∧
     (inFlight = false → g.slipMin ≤ slip → slip ≤ g.slipMax → predicted.natAbs ≤ g.window →
       d * 100 ≤ g.voltTolerance * volt.volts → f < range.1 ∨ range.2 < f → verdict = .shipFrequency) ∧
     (inFlight = false → g.slipMin ≤ slip → slip ≤ g.slipMax → predicted.natAbs ≤ g.window →
       d * 100 ≤ g.voltTolerance * volt.volts → range.1 ≤ f → f ≤ range.2 →
       verdict = if check then .earthCheck else .qualifying)) ∧
  (∀ (b : Berth) (stamp : TimeStamp) (s : State),
     let z := s.input .ship b
     let c := compute b stamp s
     (z.live = false ∨ z.period = none ∨ z.valid = false ∨ z.latest = none ∨
         (z.previous = none ∧ ∀ l, z.latest = some l → 2 ^ 31 ≤ (stamp - l).toNat) →
       c = Computation.ended stamp .shipNotLive) ∧
     ∀ (period : BitVec 32) (fShip : Nat) (l tShip : TimeStamp), z.live = true → z.valid = true →
       z.period = some period → z.frequency = some fShip → z.latest = some l →
       ((stamp - l).toNat < 2 ^ 31 → tShip = l) → (2 ^ 31 ≤ (stamp - l).toNat → z.previous = some tShip) →
       let delay := (stamp - tShip).toNat
       let theta := phaseAngle delay period.toNat
       let late := { Computation.ended stamp .lateShipCrossing with delta := some delay }
       (period.toNat ≤ delay → c = late) ∧
       (delay < period.toNat → (s.input .outlet b).frequency = none →
         c = { late with theta := some theta, verdict := .noOutletPeriod }) ∧
       ∀ fOut, delay < period.toNat → (s.input .outlet b).frequency = some fOut →
         let slip := (fOut : Int) - (fShip : Int)
         let advanced := advanceAngle slip (s.setting b).closingTime
         let predicted := wrapAngle (theta - advanced)
         let stale := { late with
           theta := some theta, slip := some slip, advanceAngle := some advanced, predicted := some predicted,
           outletFreq := some fOut, shipFreq := some fShip, verdict := .voltageStale }
         (s.port.last.get b = none ∨ 5 < s.port.age.get b → c = stale) ∧
         ∀ v, s.port.last.get b = some v → s.port.age.get b ≤ 5 →
           let d := max v.outlet.toNat v.shipBus.toNat - min v.outlet.toNat v.shipBus.toNat
           c = { stale with
             outletVolts := some v.outlet.toNat, shipVolts := some v.shipBus.toNat, voltDifference := some d,
             verdict := judgeCrossing (s.sync b).inFlight (s.sync b).earthCheck (s.setting b) (s.agreedVolt b)
               (s.agreedFreq b) slip predicted d fShip })

/-- R91, R93, R94, R158: an outlet crossing at a running Synchroniser raises the qualifying count or sets it to 0; the
crossing that brings it to K, with the coupler open, drives the close pulse, supervised for T_c + 100 ms: where the
berth holds no reservation it first reserves the two lowest-numbered free slots, which leave the free ones, and its
summary reserved field becomes yes; where it holds one that is kept. With the coupler closed or a slot wanting no pulse
is driven. A STOPPED Synchroniser takes no crossing.

R91, R93: each crossing's computation replaces the last one, with the count after it; at K that is K with a pulse or the
coupler closed, and a refused reservation leaves 0 with the verdict POOL_LOW: the model's choice (log 25).

R73, R87: a captured edge of the berth's ZO input, its record captured first, does exactly this (the time carried forward
to the edge's stamp is the model's choice, log 24). -/
def Obligations.ClosePulseNeedsKCrossingsAndTwoSlots : Prop :=
  (∀ (b : Berth) (stamp : TimeStamp) (s : State), (s.sync b).running = false → outletCrossing b stamp s = s) ∧
  (∀ (b : Berth) (stamp : TimeStamp) (s : State), (s.sync b).running = true →
     let c := compute b stamp s
     let t := outletCrossing b stamp s
     let n := (s.sync b).count + 1
     (c.verdict ≠ .qualifying → (t.sync b).count = 0 ∧ (t.sync b).closeLine = (s.sync b).closeLine ∧
       (t.sync b).last = some { c with count := 0 }) ∧
     (c.verdict = .qualifying → n < (s.setting b).qualifyCount →
       (t.sync b).count = n ∧ (t.sync b).closeLine = (s.sync b).closeLine ∧
       (t.sync b).last = some { c with count := n }) ∧
     (c.verdict = .qualifying → (s.setting b).qualifyCount ≤ n →
       ((s.sec b).couplerAux = .closed →
         (t.sync b).count = 0 ∧ (t.sync b).closeLine = (s.sync b).closeLine ∧ t.records = s.records ∧
         (t.sync b).last = some { c with count := n }) ∧
       ((s.sec b).couplerAux = .opened → 2 ≤ s.records.freeSlotCount ∨ s.records.reservedSlots b ≠ [] →
         (t.sync b).count = 0 ∧ (t.sync b).closeLine = true ∧ (t.sync b).inFlight = true ∧
         (t.sync b).last = some { c with count := n } ∧
         (t.sync b).supervision = some (s.now + ((s.setting b).closingTime + 100) * 10000) ∧
         (s.records.reservedSlots b ≠ [] → t.records = s.records ∧ t.berth b = s.berth b) ∧
         ∀ low high rest, s.records.reservedSlots b = [] → s.records.freeSlots = low :: high :: rest →
           t.records.reservedSlots b = [low, high] ∧ t.records.freeSlots = rest ∧
           t.berth b = { s.berth b with summaryReserved := true } ∧ t.records.tariffQueue = s.records.tariffQueue ∧
           t.records.copyQueues = s.records.copyQueues ∧ t.records.held = s.records.held) ∧
       ((s.sec b).couplerAux = .opened → s.records.freeSlotCount < 2 → s.records.reservedSlots b = [] →
         (t.sync b).count = 0 ∧ (t.sync b).closeLine = (s.sync b).closeLine ∧ t.records = s.records ∧
         (t.sync b).last = some { c with verdict := .poolLow, count := 0 } ∧
         t.shoreSet .poolLow = true ∧ t.tariffSet .poolLow = true))) ∧
  (∀ (b : Berth) (dt : Nat) (s : State), s.quiet → dt < 2 ^ 31 →
     let stamp := BitVec.ofNat 32 (s.now + dt)
     (∀ e, (s.input .outlet b).deadTimer = some e → s.now + dt ≤ e) →
     (∀ l, (s.input .outlet b).latest = some l → 10000 ≤ (stamp - l).toNat) →
     let deadAt := s.now + dt + if s.agreedFreq b = .hz50 then 400000 else 333334
     exec (.zeroCrossing .outlet b stamp) s =
       .next (outletCrossing b stamp ((advance dt (cleared s)).modInput .outlet b fun r => r.capture stamp deadAt)))

/-- R97: the sync timer's expiry with a close in flight is held; without one it returns the berth to ENERGISING with the
sync-timeout hold, its Synchroniser stopped, its reference in FREE and both notices latched; a stopped timer does
nothing.

R96, R97, R158, R159: a close failure releases the close line, drives the open pulse and returns the reservation: no slot
stays reserved for the berth, and where no record is held each of its slots becomes FREE and every other slot is left;
below the third the count rises and CLOSE_FAILED is latched, the berth staying or, with a held timeout, returning to
ENERGISING under the hold; the third trips the berth with COUPLER_CLOSE_FAIL.

An expiry's command carrying the time forward to its moment is the model's choice (log 3). -/
def Obligations.SyncTimeoutsAndCloseFailuresEndTheAttempt : Prop :=
  (∀ (b : Berth) (s : State), s.quiet →
     (∀ e, (s.sync b).syncTimer = some e → (s.sync b).inFlight = true →
       exec (.syncTimeout b) s =
         .next ((atExpiry e s).modSync b fun y => { y with syncTimer := none, heldTimeout := true })) ∧
     (∀ e, (s.sync b).syncTimer = some e → (s.sync b).inFlight = false →
       ∃ t, exec (.syncTimeout b) s = .next t ∧ leavesOthers b (atExpiry e s) t ∧ (t.berth b).stage = .energising ∧
         (t.berth b).syncHold = true ∧ (t.berth b).stageTimer = none ∧ (t.berth b).qualification = none ∧
         (t.sync b).running = false ∧ (t.sync b).syncTimer = none ∧ (t.reference b).mode = .free ∧
         t.shoreSet (.syncTimeout b) = true ∧ t.shipSet b .syncTimeout = true ∧
         (t.berth b).holder = (s.berth b).holder ∧ (t.berth b).agreement = (s.berth b).agreement ∧
         t.records = s.records ∧ t.meters = s.meters ∧ t.pool = s.pool ∧ t.budget = s.budget ∧
         t.sections = s.sections) ∧
     ((s.sync b).syncTimer = none → exec (.syncTimeout b) s = .next (cleared s))) ∧
  (∀ (b : Berth) (e : Nat) (s : State), s.quiet → (s.berth b).stage = .synchronising →
     (s.sync b).supervision = some e →
     ∃ t, exec (.closeFailure b) s = .next t ∧ leavesOthers b (atExpiry e s) t ∧ (t.sync b).closeLine = false ∧
       (t.sync b).inFlight = false ∧ (t.berth b).summaryReserved = false ∧
       (s.records.held = [] → (s.meter b).connected = false →
         t.records.reservedSlots b = [] ∧ (∀ i ∈ s.records.reservedSlots b, t.records.slots.get i = .free) ∧
         (∀ i, i ∉ s.records.reservedSlots b → t.records.slots.get i = s.records.slots.get i) ∧
         t.records.tariffQueue = s.records.tariffQueue ∧ t.records.copyQueues = s.records.copyQueues ∧
         t.records.held = []) ∧
       (t.sec b).couplerOpen = some ((s.sec b).couplerOpen.getD (max s.now e + 200 * 10000)) ∧
       ((s.sync b).failures < 2 → t.shoreSet (.closeFailed b) = true ∧ t.shipSet b .closeFailed = true) ∧
       ((s.sync b).failures < 2 → (s.sync b).heldTimeout = false →
         (t.berth b).stage = .synchronising ∧ (t.sync b).failures = (s.sync b).failures + 1 ∧
         (t.sync b).running = (s.sync b).running) ∧
       ((s.sync b).failures < 2 → (s.sync b).heldTimeout = true →
         (t.berth b).stage = .energising ∧ (t.berth b).syncHold = true ∧ (t.sync b).running = false) ∧
       (2 ≤ (s.sync b).failures →
         (t.berth b).stage = .tripped ∧ (t.berth b).causes = (s.berth b).causes ++ [.couplerCloseFail]))

/-- R103: an advance moves the setpoint toward the target by a tenth of the rate, and lands on it exactly where the
distance left is smaller; landed, the ramp is IDLE and its advances stop, else it stays MOVING and the next advance comes
100 ms after this one; a suspended advance leaves the setpoint and the reservations; a ramp that is not MOVING has no
advance.

R67, R114, R115: the shares follow the new setpoint, the reservation falls to the need where it lies above, a waiting
entry's wanted amount falls with it, and the headroom there then is goes to the waiting list from its head on.

R103, R107, R18: in RAMPING_OUT an advance that leaves the setpoint above 0 keeps the stage; one that brings it to 0
makes the separation test: with a power of age 5 at most within the threshold the berth enters SEPARATING with cause
NORMAL, its reference in FORM and, the coupler closed, its open pulse, and gives up its reservation and grants;
otherwise it stays and the separation wait of 30 s starts.

R107: the separation wait's expiry in RAMPING_OUT sets separation delayed and latches SEPARATION_DELAYED on both
links; the timer is not restarted and the berth keeps waiting. The shore link's notice going out before the ship link's
is the model's choice (log 32).

An expiry's command carrying the time forward to its moment is the model's choice (log 3). -/
def Obligations.RampAdvancesAndSeparationWait : Prop :=
  (∀ (b : Berth) (s : State), s.quiet →
     let follows := fun (e : Nat) (t : State) =>
       ((t.ramp b).setpoint = (s.ramp b).setpoint →
         (t.budget.reservations, t.budget.waiting) = (s.budget.reservations, s.budget.waiting)) ∧
       ((t.ramp b).setpoint ≠ (s.ramp b).setpoint →
         sharesFollow b t ∧
         (t.budget.reservations, t.budget.waiting) =
           lowersTo b (max (t.ramp b).setpoint (min (s.ramp b).wanted (min (s.agreedKw b) (s.ramp b).capacity))) s) ∧
       (s.waitEntry b = none → (t.ramp b).target = (s.ramp b).target) ∧
       ((t.ramp b).setpoint = (t.ramp b).target → (t.ramp b).state = .idle ∧ (t.ramp b).advance = none) ∧
       ((t.ramp b).setpoint ≠ (t.ramp b).target →
         (t.ramp b).state = .moving ∧ (s.waitEntry b = none → (t.ramp b).advance = some (e + 100 * 10000)))
     (∀ e, (s.ramp b).state = .moving → (s.ramp b).advance = some e → (s.ramp b).suspended = true →
       exec (.rampAdvance b) s =
         .next ((atExpiry e s).modRamp b fun r => { r with advance := some (e + 100 * 10000) })) ∧
     (∀ e, (s.ramp b).state = .moving → (s.ramp b).advance = some e → (s.ramp b).suspended = false →
       (s.berth b).stage = .rampingIn ∨ (s.berth b).stage = .parallel →
       let step := (s.ramp b).rate / 10
       ∃ t, exec (.rampAdvance b) s = .next t ∧ leavesOthers b (atExpiry e s) t ∧ follows e t ∧
         (t.berth b).stage = (s.berth b).stage ∧ (t.ramp b).wanted = (s.ramp b).wanted ∧
         (t.ramp b).rate = (s.ramp b).rate ∧
         ((s.ramp b).setpoint ≤ (s.ramp b).target →
           (t.ramp b).setpoint = min (s.ramp b).target ((s.ramp b).setpoint + step)) ∧
         ((s.ramp b).target ≤ (s.ramp b).setpoint →
           (t.ramp b).setpoint = max (s.ramp b).target ((s.ramp b).setpoint - step)) ∧
         t.records = s.records ∧ t.meters = s.meters ∧ t.sections = s.sections ∧ t.syncs = s.syncs) ∧
     (∀ e, (s.ramp b).state = .moving → (s.ramp b).advance = some e → (s.ramp b).suspended = false →
       (s.berth b).stage = .rampingOut → (s.ramp b).target = 0 → 0 < (s.ramp b).setpoint →
       let small := ∃ v, s.port.last.get b = some v ∧ (measuredKw v.power).natAbs ≤ s.settings.threshold
       ∃ t, exec (.rampAdvance b) s = .next t ∧ leavesOthers b (atExpiry e s) t ∧
         (t.ramp b).setpoint = (s.ramp b).setpoint - (s.ramp b).rate / 10 ∧
         ((s.ramp b).rate / 10 < (s.ramp b).setpoint → (t.berth b).stage = .rampingOut ∧ follows e t) ∧
         ((s.ramp b).setpoint ≤ (s.ramp b).rate / 10 → s.port.age.get b ≤ 5 → small →
           (s.sec b).couplerAux = .closed →
           (t.berth b).stage = .separating ∧ (t.berth b).separationCause = some .normal ∧
           (t.reference b).mode = .form ∧ givesUpGrants b (atExpiry e s) t ∧ keepsRunning b s t ∧
           (t.sec b).couplerOpen = some ((s.sec b).couplerOpen.getD (max s.now e + 200 * 10000))) ∧
         ((s.ramp b).setpoint ≤ (s.ramp b).rate / 10 → 5 < s.port.age.get b ∨ ¬ small →
           (t.berth b).stage = .rampingOut ∧ follows e t ∧
           (t.ramp b).separationWait = some (max s.now e + 30 * 10000000))) ∧
     ((s.ramp b).state ≠ .moving → exec (.rampAdvance b) s = .next (cleared s))) ∧
  (∀ (b : Berth) (s : State), s.quiet →
     (∀ e, (s.ramp b).separationWait = some e → (s.berth b).stage = .rampingOut →
       exec (.separationWaitExpiry b) s =
         .next (latchShip b .separationDelayed (latchShore (.separationDelayed b)
           ((atExpiry e s).modRamp b fun r => { r with separationWait := none, separationDelayed := true })))) ∧
     ((s.ramp b).separationWait = none → exec (.separationWaitExpiry b) s = .next (cleared s)))

/-- R21, R127, R12, R96, R119, R123, R124, R125, R131, R134: the events that raise one of the eight trip causes take a
berth outside TRIPPED to TRIPPED with that cause, no authority, both TRIP notices, its Synchroniser and reference
stopped, its outlet commanded open and its connection ended: the stage timer of ENERGISING, the overload timer, the
outlet's close and open times, the grace timer, a failed earth-path check, the third close failure, the emergency-stop
loop opening, the plug pilot opening from ALLOCATING on, and an uncommanded change of the outlet auxiliary.

R21, R63, R110: the berth gives up its ramp, its waiting place, its reservation, its allocation queue entry and the
grants of its modules, its RUNNING modules being sent DRAIN and entering DRAINING; its stage timer is stopped and its
sync-timeout hold cleared; with no connection open its summary reservation is returned; from NEGOTIATING the exchange is
abandoned (R29).

R139, R145, R146: a connection still open is ended with TRIP and the first cause: its last Interval Record, marked
PARTIAL_END and TRIP, and its Connection Summary are written, or the last Interval Record is held where no slot is free.
An outlet that opens uncommanded in SEPARATING ends it with the separation cause (log 18, deduced); at the third close
failure none is open.

R126, R21: the open pulse begins where the coupler auxiliary reads CLOSED or the close line is active, and at a close
failure whatever they show (R96); a pulse that runs keeps its timer.

R127: a cause raised in TRIPPED joins the set once, behind the first cause, and latches TRIP on the shore link; a
cause already in the set changes nothing.

An expiry's command carrying the time forward to its moment is the model's choice (log 3). -/
def Obligations.TripCausesTakeTheBerthToTrippedOnce : Prop :=
  (∀ (b : Berth) (e : Nat) (command : Instr) (cause : TripCause) (s : State), s.quiet →
     (s.berth b).stage ≠ .tripped →
     (command = .energiseTimeout b ∧ cause = .energiseTimeout ∧ (s.berth b).stage = .energising ∧
         (s.berth b).stageTimer = some e ∨
       command = .overloadExpiry b ∧ cause = .overload ∧ (s.sec b).overloadTimer = some e ∨
       command = .outletCloseTimeout b ∧ cause = .outletBreaker ∧ (s.sec b).supervision = .closing e ∨
       command = .outletOpenTimeout b ∧ cause = .outletBreaker ∧ (s.sec b).supervision = .opening e ∨
       command = .graceExpiry b ∧ cause = .shipLinkLoss ∧ (s.sec b).graceTimer = some e ∨
       (∃ forced, command = .earthCheckEnd b ∧ cause = .earthPath ∧ (s.sec b).schedule = .running e forced ∧
         (s.sec b).earthResult = .failed) ∨
       command = .closeFailure b ∧ cause = .couplerCloseFail ∧ (s.sync b).supervision = some e ∧
         2 ≤ (s.sync b).failures ∨
       command = .emergencyStopChange b .opened ∧ cause = .emergencyStop ∧ (s.sec b).emergencyStop = .closed ∧
         e = s.now ∨
       command = .plugPilotChange b .opened ∧ cause = .plugPilot ∧ (s.sec b).plugPilot = .closed ∧ e = s.now ∧
         (s.berth b).stage ≠ .vacant ∧ (s.berth b).stage ≠ .negotiating ∧ (s.berth b).stage ≠ .agreed ∨
       (∃ level, command = .outletAuxChange b level ∧ cause = .outletBreaker ∧ (s.sec b).outletAux ≠ level ∧
         (s.sec b).supervision = .idle ∧ (s.sec b).outletCommand ≠ level ∧ e = s.now)) →
     ∃ t, exec command s = .next t ∧ t.now = max s.now e ∧ (t.berth b).stage = .tripped ∧
       (t.berth b).causes = (s.berth b).causes ++ [cause] ∧ (t.berth b).holder = .nobody ∧
       (t.berth b).pendingSince = none ∧ (t.berth b).agreement = (s.berth b).agreement ∧
       (t.berth b).status = (s.berth b).status ∧ (t.berth b).linkLost = (s.berth b).linkLost ∧
       t.shoreSet (.trip b) = true ∧ t.shipSet b .trip = true ∧ (t.sync b).running = false ∧
       (t.sync b).inFlight = false ∧ (t.sync b).closeLine = false ∧ (t.reference b).mode = .stopped ∧
       (t.sec b).outletCommand = .opened ∧ (t.sec b).schedule = .inactive ∧ (t.sec b).graceTimer = none ∧
       (t.sec b).overloadTimer = none ∧ (t.meter b).connected = false ∧
       (let first := EndCause.trip (((s.berth b).causes ++ [cause]).headD cause)
        cause ≠ .couplerCloseFail → ¬ ((s.berth b).stage = .separating ∧ command = .outletAuxChange b .opened) →
        writesConnectionEnd b first s t ∧ holdsFinalInterval b first s t) ∧
       (∀ held, (s.berth b).stage = .separating → command = .outletAuxChange b .opened →
         (s.berth b).separationCause = some held →
         writesConnectionEnd b (.separated held) s t ∧ holdsFinalInterval b (.separated held) s t) ∧
       t.settings = s.settings ∧
       t.tariff = s.tariff ∧ t.port = s.port ∧ givesUpModules b (atExpiry e s) t ∧ (t.berth b).stageTimer = none ∧
       (t.berth b).syncHold = false ∧ ((s.meter b).connected = false → (t.berth b).summaryReserved = false) ∧
       t.unit b = (if (s.berth b).stage = .negotiating then (s.unit b).abandon else s.unit b) ∧
       (t.sec b).couplerOpen =
         (if (s.sec b).couplerAux = .closed ∨ (s.sync b).closeLine = true ∨ cause = .couplerCloseFail then
           some ((s.sec b).couplerOpen.getD (max s.now e + 200 * 10000))
         else (s.sec b).couplerOpen) ∧
       ∀ c, c ≠ b → (t.berth c).stage = (s.berth c).stage ∧ (t.berth c).holder = (s.berth c).holder ∧
         (t.berth c).causes = (s.berth c).causes ∧ (t.berth c).agreement = (s.berth c).agreement) ∧
  (∀ (b : Berth) (cause : TripCause) (s : State), (s.berth b).stage = .tripped →
     (cause ∈ (s.berth b).causes → raiseCause b cause s = s) ∧
     (cause ∉ (s.berth b).causes →
       raiseCause b cause s =
         latchShore (.trip b) (s.modBerth b fun r => { r with causes := (s.berth b).causes ++ [cause] })))

/-- R172, R173, R27: the loss of the shore link gives up the shore's authority on every berth, to a ship with a request
pending or to NONE, and latches SHORE_LINK_LOST; the loss of the tariff link latches TARIFF_LINK_LOST; either link is
DOWN with its timer stopped and outstanding clear, and no stage changes.

An expiry's command carrying the time forward to its moment is the model's choice (log 3). -/
def Obligations.ShoreAndTariffLinkLoss : Prop :=
  ∀ (e : Nat) (s : State), s.quiet →
    ((s.links.get .shore).up = true → (s.links.get .shore).silence = some e →
      ∃ t, exec (.linkLoss .shore) s = .next t ∧
        t = { atExpiry e s with links := t.links, berths := t.berths, sent := t.sent } ∧
        (t.links.get .shore).up = false ∧ (t.links.get .shore).silence = none ∧
        (t.links.get .shore).outstanding = false ∧ t.shoreSet .shoreLinkLost = true ∧
        t.links.get .tariff = s.links.get .tariff ∧
        ∀ b,
          ((s.berth b).holder ≠ .shore → t.berth b = s.berth b) ∧
          ((s.berth b).holder = .shore → (s.berth b).pendingSince = none →
            t.berth b = { s.berth b with holder := .nobody }) ∧
          ((s.berth b).holder = .shore → (s.berth b).pendingSince ≠ none →
            t.berth b = { s.berth b with holder := .ship, pendingSince := none } ∧
            t.shipSet b .authorityGranted = true)) ∧
    ((s.links.get .tariff).up = true → (s.links.get .tariff).silence = some e →
      ∃ t, exec (.linkLoss .tariff) s = .next t ∧
        t = { atExpiry e s with links := t.links, sent := t.sent } ∧
        (t.links.get .tariff).up = false ∧ (t.links.get .tariff).silence = none ∧
        (t.links.get .tariff).outstanding = false ∧ t.shoreSet .tariffLinkLost = true)

/-- R172, R27, R133, R134: the loss of a ship link sets the link-lost flag, removes the ship's authority and pending
request and, but in VACANT, latches SHIP_LINK_LOST; NEGOTIATING and AGREED enter VACANT, ALLOCATING, ENERGISING and
SYNCHRONISING enter RELEASING, PARALLEL, RAMPING_IN and RAMPING_OUT hold the ramp and start the 10 s grace timer, and the
others keep their stage.

R19, R63, R110: the entry to RELEASING gives up the berth's grants, waiting place and reservation and drains its RUNNING
modules; a close in flight is given up with the open pulse driven and the summary reservation returned, and without one
neither is touched.

R105, R114, R116: the hold is that of an accepted Hold: the wanted target becomes the setpoint and the target follows the
reservation held, the place on the waiting list is given up, the headroom being offered to the list without it, and the
reservation falls to the setpoint where it lies above, what that frees going to the list.

An expiry's command carrying the time forward to its moment is the model's choice (log 3). -/
def Obligations.ShipLinkLossActsByStage : Prop :=
  ∀ (b : Berth) (e : Nat) (s : State), s.quiet → (s.links.get (.ship b)).up = true →
    (s.links.get (.ship b)).silence = some e →
    ∃ t, exec (.linkLoss (.ship b)) s = .next t ∧ t.now = max s.now e ∧ (t.links.get (.ship b)).up = false ∧
      (t.berth b).linkLost = true ∧ (t.berth b).pendingSince = none ∧ (t.berth b).holder ≠ .ship ∧
      ((s.berth b).stage ≠ .vacant → t.shoreSet (.shipLinkLost b) = true) ∧
      ((s.berth b).stage = .vacant ∨ (s.berth b).stage = .shoreCarrying ∨ (s.berth b).stage = .separating ∨
          (s.berth b).stage = .releasing ∨ (s.berth b).stage = .tripped →
        (t.berth b).stage = (s.berth b).stage ∧ t.ramps = s.ramps ∧ t.meters = s.meters ∧ t.pool = s.pool) ∧
      ((s.berth b).stage = .negotiating ∨ (s.berth b).stage = .agreed →
        (t.berth b).stage = .vacant ∧ (t.berth b).agreement = none ∧ (t.unit b).phase = .idle) ∧
      ((s.berth b).stage = .allocating ∨ (s.berth b).stage = .energising ∨ (s.berth b).stage = .synchronising →
        (t.berth b).stage = (if (t.berth b).moduleCount = 0 ∧ (s.sec b).outletAux = .opened then .vacant
          else .releasing) ∧ (t.reference b).mode = .stopped ∧ (t.sync b).running = false ∧
        givesUpModules b (atExpiry e s) t ∧ (t.berth b).stageTimer = none ∧ (t.berth b).syncHold = false ∧
        (t.sync b).inFlight = false ∧ (t.sync b).closeLine = false ∧ (t.sec b).outletCommand = .opened ∧
        (t.sec b).schedule = .inactive ∧
        ((s.sync b).inFlight = true →
          (t.sec b).couplerOpen = some ((s.sec b).couplerOpen.getD (max s.now e + 200 * 10000)) ∧
          (t.berth b).summaryReserved = false ∧
          (s.records.held = [] → t.records.reservedSlots b = [] ∧
            ∀ i ∈ s.records.reservedSlots b, t.records.slots.get i = .free)) ∧
        ((s.sync b).inFlight = false →
          (t.sec b).couplerOpen = (s.sec b).couplerOpen ∧
          (t.berth b).summaryReserved = (s.berth b).summaryReserved)) ∧
      ((s.berth b).stage = .parallel ∨ (s.berth b).stage = .rampingIn ∨ (s.berth b).stage = .rampingOut →
        (t.berth b).stage = (s.berth b).stage ∧ (t.sec b).graceTimer = some (max s.now e + 10 * 10000000) ∧
        (t.ramp b).state = .held ∧ (t.ramp b).wanted = (s.ramp b).setpoint ∧ (t.ramp b).advance = none ∧
        (t.ramp b).setpoint = (s.ramp b).setpoint ∧ (t.ramp b).rate = (s.ramp b).rate ∧
        (t.ramp b).target =
          min (min (s.ramp b).setpoint (min (s.agreedKw b) (s.ramp b).capacity)) (s.reservation b) ∧
        t.waitEntry b = none ∧ t.reservation b = min (s.ramp b).setpoint (s.reservation b) ∧
        (t.budget.reservations, t.budget.waiting) =
          served s.settings.importLimit
            ((withoutEntry b s).1.set b (min (s.ramp b).setpoint (s.reservation b))) (withoutEntry b s).2 ∧
        t.meters = s.meters ∧ t.records = s.records ∧ t.pool = s.pool ∧ t.syncs = s.syncs) ∧
      ∀ c, c ≠ b → (t.berth c).stage = (s.berth c).stage ∧ (t.berth c).holder = (s.berth c).holder

/-- R122: a change of any of the five inputs of a berth moves its level and sets its change flag, the other flags
staying, and latches INPUT_CHANGE where the flag was clear, whatever else it does; a level that does not change is no
event.

R122, R123, R131: a change of the earth-monitor result, and a closing emergency-stop loop, do nothing else. -/
def Obligations.InputChangesSetTheirFlag : Prop :=
  (∀ (b : Berth) (x : Contact) (y : EarthResult) (s : State), s.quiet →
     let before := s.shoreSet (.inputChange b)
     let old := (s.sec b).flags
     ((s.sec b).emergencyStop ≠ x →
       ∃ t, exec (.emergencyStopChange b x) s = .next t ∧ (t.sec b).emergencyStop = x ∧
         (t.sec b).flags = { old with emergencyStop := true } ∧
         t.shoreSet (.inputChange b) = (before || !old.emergencyStop)) ∧
     ((s.sec b).plugPilot ≠ x →
       ∃ t, exec (.plugPilotChange b x) s = .next t ∧ (t.sec b).plugPilot = x ∧
         (t.sec b).flags = { old with plugPilot := true } ∧
         t.shoreSet (.inputChange b) = (before || !old.plugPilot)) ∧
     ((s.sec b).outletAux ≠ x →
       ∃ t, exec (.outletAuxChange b x) s = .next t ∧ (t.sec b).outletAux = x ∧
         (t.sec b).flags = { old with outletAux := true } ∧
         t.shoreSet (.inputChange b) = (before || !old.outletAux)) ∧
     ((s.sec b).couplerAux ≠ x →
       ∃ t, exec (.couplerAuxChange b x) s = .next t ∧ (t.sec b).couplerAux = x ∧
         (t.sec b).flags = { old with couplerAux := true } ∧
         t.shoreSet (.inputChange b) = (before || !old.couplerAux)) ∧
     ((s.sec b).earthResult ≠ y →
       ∃ t, exec (.earthResultChange b y) s = .next t ∧ (t.sec b).earthResult = y ∧
         (t.sec b).flags = { old with earthResult := true } ∧
         t.shoreSet (.inputChange b) = (before || !old.earthResult)) ∧
     exec (.earthResultChange b (s.sec b).earthResult) s = .next (cleared s) ∧
     exec (.emergencyStopChange b (s.sec b).emergencyStop) s = .next (cleared s) ∧
     exec (.plugPilotChange b (s.sec b).plugPilot) s = .next (cleared s) ∧
     exec (.outletAuxChange b (s.sec b).outletAux) s = .next (cleared s) ∧
     exec (.couplerAuxChange b (s.sec b).couplerAux) s = .next (cleared s)) ∧
  (∀ (b : Berth) (s : State), s.quiet →
     (∀ x, (s.sec b).earthResult ≠ x → (s.sec b).flags.earthResult = false →
       exec (.earthResultChange b x) s =
         .next (latchShore (.inputChange b) ((cleared s).modSec b fun c =>
           { c with earthResult := x, flags := { c.flags with earthResult := true } }))) ∧
     (∀ x, (s.sec b).earthResult ≠ x → (s.sec b).flags.earthResult = true →
       exec (.earthResultChange b x) s = .next ((cleared s).modSec b fun c => { c with earthResult := x })) ∧
     ((s.sec b).emergencyStop = .opened → (s.sec b).flags.emergencyStop = false →
       exec (.emergencyStopChange b .closed) s =
         .next (latchShore (.inputChange b) ((cleared s).modSec b fun c =>
           { c with emergencyStop := .closed, flags := { c.flags with emergencyStop := true } }))))

/-- R123, R7, R8, R9: the plug pilot's opening does nothing to the stage in VACANT, takes NEGOTIATING and AGREED to
VACANT without declaring the link lost, and trips the berth with PLUG_PILOT in the stages from ALLOCATING to RELEASING;
its closing takes a VACANT berth in service with its link up to NEGOTIATING, and changes no other stage. -/
def Obligations.PlugPilotActsByStage : Prop :=
  ∀ (b : Berth) (s : State), s.quiet →
    ((s.sec b).plugPilot = .closed →
      ∃ t, exec (.plugPilotChange b .opened) s = .next t ∧ (t.sec b).plugPilot = .opened ∧
        (t.sec b).flags.plugPilot = true ∧ (t.berth b).linkLost = (s.berth b).linkLost ∧
        ((s.berth b).stage = .vacant → t.berths = s.berths) ∧
        ((s.berth b).stage = .negotiating ∨ (s.berth b).stage = .agreed →
          (t.berth b).stage = .vacant ∧ (t.berth b).agreement = none ∧ (t.berth b).holder = .nobody) ∧
        ((s.berth b).stage ≠ .vacant → (s.berth b).stage ≠ .negotiating → (s.berth b).stage ≠ .agreed →
          (t.berth b).stage = .tripped ∧ .plugPilot ∈ (t.berth b).causes) ∧
        ∀ c, c ≠ b → (t.berth c).stage = (s.berth c).stage ∧ (t.berth c).causes = (s.berth c).causes) ∧
    ((s.sec b).plugPilot = .opened →
      ∃ t, exec (.plugPilotChange b .closed) s = .next t ∧ (t.sec b).plugPilot = .closed ∧
        (t.sec b).flags.plugPilot = true ∧ (t.berth b).causes = (s.berth b).causes ∧
        (t.berth b).stage =
          (if (s.berth b).stage = .vacant ∧ (s.berth b).inService = true ∧ (s.berth b).linkLost = false then
            .negotiating
          else (s.berth b).stage) ∧
        t.pool = s.pool ∧ t.budget = s.budget ∧ t.meters = s.meters ∧ t.records = s.records ∧ t.ramps = s.ramps)

/-- R124, R125, R10, R18, R20: the outlet auxiliary confirming a supervised close in ALLOCATING takes the berth to
ENERGISING, with FREE, the 30 s stage timer and the first check 60 s later; confirming a supervised opening in RELEASING
with no module left it takes the berth on; an uncommanded change raises OUTLET_BREAKER.

R18, R125, R139, R145, R146: confirming a supervised opening in SEPARATING ends the connection if it is still open, with
the berth's separation cause, and the berth enters RELEASING with its reference stopped and moves on where no module is
left; a connection so ended on a berth whose link is not lost has its last Interval Record and its Connection Summary
written. -/
def Obligations.OutletAuxiliaryConfirmsOrTrips : Prop :=
  ∀ (b : Berth) (s : State), s.quiet →
    (∀ e, (s.sec b).supervision = .closing e → (s.sec b).outletAux = .opened → (s.berth b).stage = .allocating →
      ∃ t, exec (.outletAuxChange b .closed) s = .next t ∧ (t.sec b).outletAux = .closed ∧
        (t.sec b).supervision = .idle ∧ (t.berth b).stage = .energising ∧ (t.reference b).mode = .free ∧
        (t.berth b).stageTimer = some (s.now + 30 * 10000000) ∧ (t.berth b).qualification = none ∧
        (t.sec b).schedule = .waiting (s.now + 60 * 10000000) ∧ (t.sec b).deferrals = 0 ∧
        t.pool = s.pool ∧ t.budget = s.budget ∧ t.meters = s.meters ∧ t.records = s.records) ∧
    (∀ e, (s.sec b).supervision = .opening e → (s.sec b).outletAux = .closed → (s.berth b).stage = .releasing →
      ∃ t, exec (.outletAuxChange b .opened) s = .next t ∧ (t.sec b).supervision = .idle ∧
        ((s.berth b).moduleCount ≠ 0 → (t.berth b).stage = .releasing) ∧
        ((s.berth b).moduleCount = 0 → (s.berth b).linkLost = false → (t.berth b).stage = .agreed) ∧
        ((s.berth b).moduleCount = 0 → (s.berth b).linkLost = true → (t.berth b).stage = .vacant)) ∧
    (∀ e cause, (s.sec b).supervision = .opening e → (s.sec b).outletAux = .closed →
      (s.berth b).stage = .separating → (s.berth b).separationCause = some cause →
      ∃ t, exec (.outletAuxChange b .opened) s = .next t ∧ (t.sec b).supervision = .idle ∧
        (t.meter b).connected = false ∧ (t.reference b).mode = .stopped ∧
        ((t.berth b).moduleCount ≠ 0 → (t.berth b).stage = .releasing) ∧
        ((t.berth b).moduleCount = 0 → (s.berth b).linkLost = false → (t.berth b).stage = .agreed) ∧
        ((t.berth b).moduleCount = 0 → (s.berth b).linkLost = true → (t.berth b).stage = .vacant) ∧
        ((s.berth b).linkLost = false → (s.sync b).inFlight = false → writesConnectionEnd b (.separated cause) s t)) ∧
    ((s.sec b).supervision = .idle → (s.sec b).outletCommand = .closed → (s.sec b).outletAux = .closed →
      (s.berth b).stage ≠ .tripped →
      ∃ t, exec (.outletAuxChange b .opened) s = .next t ∧ (t.berth b).stage = .tripped ∧
        (t.berth b).causes = (s.berth b).causes ++ [.outletBreaker]) ∧
    ((s.sec b).supervision = .idle → (s.sec b).outletCommand = .opened → (s.sec b).outletAux = .opened →
      (s.berth b).stage ≠ .tripped →
      ∃ t, exec (.outletAuxChange b .closed) s = .next t ∧ (t.berth b).stage = .tripped ∧
        (t.berth b).causes = (s.berth b).causes ++ [.outletBreaker])

/-- R126, R95, R14, R17: the coupler auxiliary closing while the close line is active takes SYNCHRONISING to PARALLEL and
begins the connection; closing in TRIPPED or RELEASING begins an open pulse; opening unprompted in a joined stage takes
the berth to SEPARATING with COUPLER_OPENED_BY_SHIP and ends the connection.

R126, R18, R139, R145, R146: opening in SEPARATING while the open pulse is driven releases the line, ends the connection
with the berth's separation cause, its last Interval Record and Connection Summary written, and commands the outlet open
for 200 ms; with no slot free the last Interval Record is held instead.

R126, R18: the open pulse's expiry releases the line; in SEPARATING with the coupler still closed it makes the cause
COUPLER_FAILED_TO_OPEN and commands the outlet open.

An expiry's command carrying the time forward to its moment is the model's choice (log 3). -/
def Obligations.CouplerAuxiliaryAndOpenPulse : Prop :=
  (∀ (b : Berth) (s : State), s.quiet →
     (∀ a, (s.sec b).couplerAux = .opened → (s.berth b).stage = .synchronising → (s.sync b).closeLine = true →
       (s.berth b).agreement = some a →
       ∃ t, exec (.couplerAuxChange b .closed) s = .next t ∧ (t.berth b).stage = .parallel ∧
         (t.sync b).running = false ∧ (t.sync b).inFlight = false ∧ (t.sync b).failures = 0 ∧
         (t.reference b).mode = a.role.mode ∧ (t.ramp b).setpoint = 0 ∧ (t.ramp b).wanted = 0 ∧
         (t.ramp b).state = .idle ∧ (t.berth b).summaryReserved = (s.berth b).summaryReserved ∧
         (t.meter b).connected = true ∧ (t.meter b).delivered = 0 ∧ (t.meter b).reverse = 0 ∧
         (t.meter b).totals = Totals.zero ∧
         ∃ x i, (t.meter b).terms = some x ∧ x.agreedKw = a.agreedKw ∧ x.connectedAt = s.tariff.clock ∧
           (t.meter b).interval = some i ∧ i.start = s.tariff.clock ∧ i.elapsed = 0 ∧ i.marks.partialStart = true) ∧
     ((s.sec b).couplerAux = .opened → (s.berth b).stage = .tripped ∨ (s.berth b).stage = .releasing →
       ∃ t, exec (.couplerAuxChange b .closed) s = .next t ∧ t.berths = s.berths ∧
         (t.sec b).couplerOpen = some ((s.sec b).couplerOpen.getD (s.now + 200 * 10000))) ∧
     (∀ pulse cause, (s.sec b).couplerAux = .closed → (s.sec b).couplerOpen = some pulse →
       (s.berth b).stage = .separating → (s.berth b).separationCause = some cause →
       (s.sec b).outletCommand = .closed → (s.sec b).outletAux = .closed →
       ∃ t, exec (.couplerAuxChange b .opened) s = .next t ∧ (t.berth b).stage = .separating ∧
         (t.berth b).separationCause = some cause ∧ (t.sec b).couplerOpen = none ∧
         (t.sec b).outletCommand = .opened ∧ (t.sec b).supervision = .opening (s.now + 200 * 10000) ∧
         (t.meter b).connected = false ∧ writesConnectionEnd b (.separated cause) s t ∧
         holdsFinalInterval b (.separated cause) s t) ∧
     ((s.sec b).couplerAux = .closed → (s.sec b).couplerOpen = none →
       (s.berth b).stage = .parallel ∨ (s.berth b).stage = .rampingIn ∨ (s.berth b).stage = .shoreCarrying ∨
         (s.berth b).stage = .rampingOut →
       (s.sec b).outletCommand = .closed → (s.sec b).outletAux = .closed →
       ∃ t, exec (.couplerAuxChange b .opened) s = .next t ∧ (t.berth b).stage = .separating ∧
         (t.berth b).separationCause = some .couplerOpenedByShip ∧ (t.meter b).connected = false ∧
         (t.sec b).outletCommand = .opened ∧ (t.sec b).supervision = .opening (s.now + 200 * 10000))) ∧
  (∀ (b : Berth) (e : Nat) (s : State), s.quiet → (s.sec b).couplerOpen = some e →
     ((s.berth b).stage ≠ .separating ∨ (s.sec b).couplerAux = .opened →
       exec (.couplerOpenPulseExpiry b) s =
         .next ((atExpiry e s).modSec b fun c => { c with couplerOpen := none })) ∧
     ((s.berth b).stage = .separating → (s.sec b).couplerAux = .closed → (s.sec b).outletCommand = .closed →
       (s.sec b).outletAux = .closed →
       exec (.couplerOpenPulseExpiry b) s =
         .next (((atExpiry e s).modBerth b fun r =>
             { r with separationCause := some .couplerFailedToOpen }).modSec b fun c =>
           { c with couplerOpen := none, outletCommand := .opened,
                    supervision := .opening (max s.now e + 200 * 10000) })))

/-- R130, R131, R98, R109: at its due time a check is deferred by 15 s, at most four times in a row, while the berth is
in SYNCHRONISING or its ramp MOVING, and begins otherwise, forced at the fourth: the request line is driven, the end
comes 2 s later, and Synchroniser and ramp are told.

R131: a check that ends HEALTHY releases the request line and the two neighbours, records the result, clears the
deferrals and comes due again 60 s later.

An expiry's command carrying the time forward to its moment is the model's choice (log 3). -/
def Obligations.EarthChecksAreDeferredRunAndRenewed : Prop :=
  (∀ (b : Berth) (due : Nat) (s : State), s.quiet → (s.sec b).schedule = .waiting due →
     let busy := (s.berth b).stage = .synchronising ∨ (s.ramp b).state = .moving
     ((s.sec b).deferrals < 4 → busy →
       exec (.earthCheckDue b) s =
         .next ((atExpiry due s).modSec b fun c =>
           { c with deferrals := (s.sec b).deferrals + 1, schedule := .waiting (max s.now due + 15 * 10000000) })) ∧
     (4 ≤ (s.sec b).deferrals ∨ ¬ busy →
       exec (.earthCheckDue b) s =
         .next ((((atExpiry due s).modSec b fun c =>
           { c with schedule := .running (max s.now due + 2 * 10000000) (decide (4 ≤ (s.sec b).deferrals)),
                    checkRequest := true }).modSync b fun y => { y with earthCheck := true }).modRamp b fun r =>
           { r with suspended := true }))) ∧
  (∀ (b : Berth) (ending : Nat) (forced : Bool) (s : State), s.quiet →
     (s.sec b).schedule = .running ending forced → (s.sec b).earthResult = .healthy →
     exec (.earthCheckEnd b) s =
       .next ((((atExpiry ending s).modSec b fun c =>
         { c with checkRequest := false, lastCheck := some .healthy, deferrals := 0,
                  schedule := .waiting (max s.now ending + 60 * 10000000) }).modSync b fun y =>
         { y with earthCheck := false }).modRamp b fun r => { r with suspended := false }))

/-- R151, R150: the clock's advance adds 1 modulo 2^32 and the next comes one second later; off a boundary only the
elapsed seconds of current intervals rise; at a multiple of L a pending table becomes active.

R142, R143, R144, R156, R157, R161, R163: at a boundary with one connection open and a slot free, its interval is closed
into its totals, its record is written into the lowest-numbered free slot and joins both queues, and the next interval
begins at the boundary; with no slot free the interval is stretched and nothing is written.

R149: an interval's band is that of the latest switch point at or before its start's second of day, or, where every point
lies after it, of the schedule's last; its rate is the band's in the active table; with no table both are 0.

R161, R163: the record joining an empty, armed tariff queue latches RECORDS_AVAILABLE, an empty, armed copy queue
COPIES_AVAILABLE, and that queue is armed no more. R160: where no copy is dropped and fewer than 4 slots are then free,
the pool-low condition is set and POOL_LOW latched on the shore link and the tariff link, once until 8 are free.

R163, R159: where the berth's copy queue holds 8 records the oldest is first dropped: its slots' counts fall by 1, FREE
at 0 with no record held, and the missed copies rise by 1, to 255 at most.

An expiry's command carrying the time forward to its moment is the model's choice (log 3). -/
def Obligations.ClockAdvancesEverySecond : Prop :=
  (∀ s : State, s.quiet →
    ∃ t, exec .clockAdvance s = .next t ∧ t.now = max s.now s.tariff.nextAdvance ∧
      t.tariff.clock = s.tariff.clock + 1#32 ∧ t.tariff.nextAdvance = s.tariff.nextAdvance + 10000000 ∧
      t.tariff.notSet = s.tariff.notSet ∧
      ((s.tariff.clock + 1#32).toNat % s.settings.intervalLength ≠ 0 →
        t.tariff.active = s.tariff.active ∧ t.tariff.pending = s.tariff.pending ∧ t.records = s.records ∧
        t.links = s.links ∧
        ∀ b, t.meter b = { s.meter b with
          interval := (s.meter b).interval.map fun i => { i with elapsed := i.elapsed + 1 } }) ∧
      (∀ table, (s.tariff.clock + 1#32).toNat % s.settings.intervalLength = 0 → s.tariff.pending = some table →
        t.tariff.active = some table ∧ t.tariff.pending = none ∧ t.tariffSet .tariffActivated = true) ∧
      (∀ b, (t.berth b).stage = (s.berth b).stage ∧ (t.meter b).connected = (s.meter b).connected) ∧
      t.settings = s.settings ∧ t.pool = s.pool ∧ t.budget = s.budget ∧ t.units = s.units ∧ t.ramps = s.ramps ∧
      t.syncs = s.syncs ∧ t.sections = s.sections ∧ t.capture = s.capture ∧ t.port = s.port ∧
      ∀ b i, (s.tariff.clock + 1#32).toNat % s.settings.intervalLength = 0 → (s.meter b).connected = true →
        (∀ c, c ≠ b → (s.meter c).connected = false) → (s.meter b).interval = some i →
        (∀ slot rest, s.records.freeSlots = slot :: rest → (s.records.copyQueues.get b).length ≤ 8 →
          ∃ r, isRecordOf b (s.meter b) { i with elapsed := i.elapsed + 1 } r ∧
            ((s.records.copyQueues.get b).length < 8 → writesInterval b r s t ∧ poolLowFollows s t) ∧
            writesIntervalDropping b r s t ∧ announcesRecord b s t ∧ closedInto r (s.meter b) (t.meter b) ∧
            ∃ j, (t.meter b).interval = some j ∧ j.start = s.tariff.clock + 1#32 ∧ j.elapsed = 0 ∧ j.merged = 0 ∧
              (j.band, j.rate) = ((bandAndRate t.tariff.active (s.tariff.clock + 1#32)).1,
                (bandAndRate t.tariff.active (s.tariff.clock + 1#32)).2.1) ∧
              j.marks = { Marks.clear with clockNotSet := s.tariff.notSet,
                                           noTariff := decide (t.tariff.active = none) }) ∧
        (s.records.freeSlots = [] → t.records = s.records ∧
          t.meter b = { s.meter b with
            interval := some { i with elapsed := i.elapsed + 1, marks := { i.marks with stretched := true },
                                      merged := min 255 (i.merged + 1) } })) ∧
  (∀ start : BitVec 32,
    bandAndRate none start = (0, 0, true) ∧
    ∀ (table : TariffTable) (before after : List SwitchPoint) (p : SwitchPoint),
      let second := start.toNat % 86400
      table.points = before ++ p :: after →
      p.second ≤ second ∧ (∀ q ∈ after, second < q.second) ∨
        after = [] ∧ (∀ q ∈ table.points, second < q.second) →
      bandAndRate (some table) start = (p.band, table.rates.getD (p.band - 1) 0, false))

/-- R143, R144, R151: no boundary loses energy: a channel's totals in Wh and its accumulators in cJ hold together what
they held before the advance, whether its interval closed or stretched.

An expiry's command carrying the time forward to its moment is the model's choice (log 3). -/
def Obligations.BoundariesLoseNoEnergy : Prop :=
  ∀ (b : Berth) (s : State), s.quiet →
    ∃ t, exec .clockAdvance s = .next t ∧
      (t.meter b).totals.delivered * 360000 + (t.meter b).delivered =
        (s.meter b).totals.delivered * 360000 + (s.meter b).delivered ∧
      (t.meter b).totals.reverse * 360000 + (t.meter b).reverse =
        (s.meter b).totals.reverse * 360000 + (s.meter b).reverse

/-- R112 (the moment is the model's, log 15): the exceeded field tells whether the reservations exceed the import limit,
and every step keeps it so. -/
def Obligations.EveryStepKeepsExceededHonest : Prop :=
  ∀ s t : State, s.exceededHonest → step s = .next t → t.exceededHonest

/-- R175, R176: every step keeps every setting within its range. -/
def Obligations.EveryStepKeepsSettingsInRange : Prop :=
  ∀ s t : State, s.settings.inRange = true → step s = .next t → t.settings.inRange = true

/-- Law 9 (R27): every step keeps the authority holder NONE in VACANT and in TRIPPED. -/
def Obligations.EveryStepKeepsAuthorityLawful : Prop :=
  ∀ s t : State, s.authorityLawful → step s = .next t → t.authorityLawful

/-- Law 10 (R130): every step keeps each berth's deferral count at 4 or below. -/
def Obligations.EveryStepKeepsDeferralsLawful : Prop :=
  ∀ s t : State, s.deferralsLawful → step s = .next t → t.deferralsLawful

/-- The four invariants hold after reset. -/
def Obligations.InvariantsHoldAtReset : Prop :=
  State.reset.exceededHonest ∧ State.reset.settings.inRange = true ∧ State.reset.authorityLawful ∧
    State.reset.deferralsLawful
end

