-- ==== Sys2Proof/Laws/State.lean ====
section
/-! SUPPORT. What each update of State leaves alone, one lemma per field per update, and what reading one berth's part
gives after an update of it. -/

namespace Sys2Proof.Machine

@[simp] theorem PerBerth.get_same {α : Type} (v : α) (x : Berth) : (PerBerth.same v).get x = v := by
  cases x <;> rfl

@[simp] theorem PerBerth.get_set_self {α : Type} (p : PerBerth α) (x : Berth) (v : α) : (p.set x v).get x = v := by
  cases x <;> rfl

theorem PerBerth.get_set_of_ne {α : Type} (p : PerBerth α) (x y : Berth) (v : α) (h : y ≠ x) :
    (p.set x v).get y = p.get y := by
  cases x <;> cases y <;> first | rfl | exact absurd rfl h

theorem PerBerth.get_set {α : Type} (p : PerBerth α) (x y : Berth) (v : α) :
    (p.set x v).get y = if y = x then v else p.get y := by
  cases x <;> cases y <;> rfl

@[simp] theorem Links.get_set_self (ls : Links) (l : Link) (v : LinkState) : (ls.set l v).get l = v := by
  cases l with
  | ship b => cases b <;> rfl
  | _ => rfl

theorem Links.get_set_of_ne (ls : Links) (l k : Link) (v : LinkState) (h : k ≠ l) : (ls.set l v).get k = ls.get k := by
  cases l with
  | ship b => cases k with
    | ship c => cases b <;> cases c <;> first | rfl | exact absurd rfl h
    | _ => rfl
  | _ => cases k with
    | ship c => rfl
    | _ => first | rfl | exact absurd rfl h

theorem Links.get_set (ls : Links) (l k : Link) (v : LinkState) :
    (ls.set l v).get k = if k = l then v else ls.get k := by
  by_cases h : k = l
  · subst h; simp
  · rw [if_neg h]; exact Links.get_set_of_ne ls l k v h

@[simp] theorem State.modBerth_now (s : State) (b : Berth) (f : BerthRecord → BerthRecord) : (s.modBerth b f).now = s.now := rfl

@[simp] theorem State.modBerth_resetHeld (s : State) (b : Berth) (f : BerthRecord → BerthRecord) : (s.modBerth b f).resetHeld = s.resetHeld := rfl

@[simp] theorem State.modBerth_links (s : State) (b : Berth) (f : BerthRecord → BerthRecord) : (s.modBerth b f).links = s.links := rfl

@[simp] theorem State.modBerth_units (s : State) (b : Berth) (f : BerthRecord → BerthRecord) : (s.modBerth b f).units = s.units := rfl

@[simp] theorem State.modBerth_pool (s : State) (b : Berth) (f : BerthRecord → BerthRecord) : (s.modBerth b f).pool = s.pool := rfl

@[simp] theorem State.modBerth_references (s : State) (b : Berth) (f : BerthRecord → BerthRecord) : (s.modBerth b f).references = s.references := rfl

@[simp] theorem State.modBerth_capture (s : State) (b : Berth) (f : BerthRecord → BerthRecord) : (s.modBerth b f).capture = s.capture := rfl

@[simp] theorem State.modBerth_port (s : State) (b : Berth) (f : BerthRecord → BerthRecord) : (s.modBerth b f).port = s.port := rfl

@[simp] theorem State.modBerth_syncs (s : State) (b : Berth) (f : BerthRecord → BerthRecord) : (s.modBerth b f).syncs = s.syncs := rfl

@[simp] theorem State.modBerth_ramps (s : State) (b : Berth) (f : BerthRecord → BerthRecord) : (s.modBerth b f).ramps = s.ramps := rfl

@[simp] theorem State.modBerth_budget (s : State) (b : Berth) (f : BerthRecord → BerthRecord) : (s.modBerth b f).budget = s.budget := rfl

@[simp] theorem State.modBerth_sections (s : State) (b : Berth) (f : BerthRecord → BerthRecord) : (s.modBerth b f).sections = s.sections := rfl

@[simp] theorem State.modBerth_meters (s : State) (b : Berth) (f : BerthRecord → BerthRecord) : (s.modBerth b f).meters = s.meters := rfl

@[simp] theorem State.modBerth_tariff (s : State) (b : Berth) (f : BerthRecord → BerthRecord) : (s.modBerth b f).tariff = s.tariff := rfl

@[simp] theorem State.modBerth_records (s : State) (b : Berth) (f : BerthRecord → BerthRecord) : (s.modBerth b f).records = s.records := rfl

@[simp] theorem State.modBerth_settings (s : State) (b : Berth) (f : BerthRecord → BerthRecord) : (s.modBerth b f).settings = s.settings := rfl

@[simp] theorem State.modBerth_sent (s : State) (b : Berth) (f : BerthRecord → BerthRecord) : (s.modBerth b f).sent = s.sent := rfl

@[simp] theorem State.modBerth_freeCount (s : State) (b : Berth) (f : BerthRecord → BerthRecord) : (s.modBerth b f).freeCount = s.freeCount := rfl

@[simp] theorem State.modBerth_pending (s : State) (b : Berth) (f : BerthRecord → BerthRecord) : (s.modBerth b f).pending = s.pending := rfl

@[simp] theorem State.modUnit_now (s : State) (b : Berth) (f : AgreementUnit → AgreementUnit) : (s.modUnit b f).now = s.now := rfl

@[simp] theorem State.modUnit_resetHeld (s : State) (b : Berth) (f : AgreementUnit → AgreementUnit) : (s.modUnit b f).resetHeld = s.resetHeld := rfl

@[simp] theorem State.modUnit_links (s : State) (b : Berth) (f : AgreementUnit → AgreementUnit) : (s.modUnit b f).links = s.links := rfl

@[simp] theorem State.modUnit_berths (s : State) (b : Berth) (f : AgreementUnit → AgreementUnit) : (s.modUnit b f).berths = s.berths := rfl

@[simp] theorem State.modUnit_pool (s : State) (b : Berth) (f : AgreementUnit → AgreementUnit) : (s.modUnit b f).pool = s.pool := rfl

@[simp] theorem State.modUnit_references (s : State) (b : Berth) (f : AgreementUnit → AgreementUnit) : (s.modUnit b f).references = s.references := rfl

@[simp] theorem State.modUnit_capture (s : State) (b : Berth) (f : AgreementUnit → AgreementUnit) : (s.modUnit b f).capture = s.capture := rfl

@[simp] theorem State.modUnit_port (s : State) (b : Berth) (f : AgreementUnit → AgreementUnit) : (s.modUnit b f).port = s.port := rfl

@[simp] theorem State.modUnit_syncs (s : State) (b : Berth) (f : AgreementUnit → AgreementUnit) : (s.modUnit b f).syncs = s.syncs := rfl

@[simp] theorem State.modUnit_ramps (s : State) (b : Berth) (f : AgreementUnit → AgreementUnit) : (s.modUnit b f).ramps = s.ramps := rfl

@[simp] theorem State.modUnit_budget (s : State) (b : Berth) (f : AgreementUnit → AgreementUnit) : (s.modUnit b f).budget = s.budget := rfl

@[simp] theorem State.modUnit_sections (s : State) (b : Berth) (f : AgreementUnit → AgreementUnit) : (s.modUnit b f).sections = s.sections := rfl

@[simp] theorem State.modUnit_meters (s : State) (b : Berth) (f : AgreementUnit → AgreementUnit) : (s.modUnit b f).meters = s.meters := rfl

@[simp] theorem State.modUnit_tariff (s : State) (b : Berth) (f : AgreementUnit → AgreementUnit) : (s.modUnit b f).tariff = s.tariff := rfl

@[simp] theorem State.modUnit_records (s : State) (b : Berth) (f : AgreementUnit → AgreementUnit) : (s.modUnit b f).records = s.records := rfl

@[simp] theorem State.modUnit_settings (s : State) (b : Berth) (f : AgreementUnit → AgreementUnit) : (s.modUnit b f).settings = s.settings := rfl

@[simp] theorem State.modUnit_sent (s : State) (b : Berth) (f : AgreementUnit → AgreementUnit) : (s.modUnit b f).sent = s.sent := rfl

@[simp] theorem State.modUnit_freeCount (s : State) (b : Berth) (f : AgreementUnit → AgreementUnit) : (s.modUnit b f).freeCount = s.freeCount := rfl

@[simp] theorem State.modUnit_pending (s : State) (b : Berth) (f : AgreementUnit → AgreementUnit) : (s.modUnit b f).pending = s.pending := rfl

@[simp] theorem State.modReference_now (s : State) (b : Berth) (f : Reference → Reference) : (s.modReference b f).now = s.now := rfl

@[simp] theorem State.modReference_resetHeld (s : State) (b : Berth) (f : Reference → Reference) : (s.modReference b f).resetHeld = s.resetHeld := rfl

@[simp] theorem State.modReference_links (s : State) (b : Berth) (f : Reference → Reference) : (s.modReference b f).links = s.links := rfl

@[simp] theorem State.modReference_berths (s : State) (b : Berth) (f : Reference → Reference) : (s.modReference b f).berths = s.berths := rfl

@[simp] theorem State.modReference_units (s : State) (b : Berth) (f : Reference → Reference) : (s.modReference b f).units = s.units := rfl

@[simp] theorem State.modReference_pool (s : State) (b : Berth) (f : Reference → Reference) : (s.modReference b f).pool = s.pool := rfl

@[simp] theorem State.modReference_capture (s : State) (b : Berth) (f : Reference → Reference) : (s.modReference b f).capture = s.capture := rfl

@[simp] theorem State.modReference_port (s : State) (b : Berth) (f : Reference → Reference) : (s.modReference b f).port = s.port := rfl

@[simp] theorem State.modReference_syncs (s : State) (b : Berth) (f : Reference → Reference) : (s.modReference b f).syncs = s.syncs := rfl

@[simp] theorem State.modReference_ramps (s : State) (b : Berth) (f : Reference → Reference) : (s.modReference b f).ramps = s.ramps := rfl

@[simp] theorem State.modReference_budget (s : State) (b : Berth) (f : Reference → Reference) : (s.modReference b f).budget = s.budget := rfl

@[simp] theorem State.modReference_sections (s : State) (b : Berth) (f : Reference → Reference) : (s.modReference b f).sections = s.sections := rfl

@[simp] theorem State.modReference_meters (s : State) (b : Berth) (f : Reference → Reference) : (s.modReference b f).meters = s.meters := rfl

@[simp] theorem State.modReference_tariff (s : State) (b : Berth) (f : Reference → Reference) : (s.modReference b f).tariff = s.tariff := rfl

@[simp] theorem State.modReference_records (s : State) (b : Berth) (f : Reference → Reference) : (s.modReference b f).records = s.records := rfl

@[simp] theorem State.modReference_settings (s : State) (b : Berth) (f : Reference → Reference) : (s.modReference b f).settings = s.settings := rfl

@[simp] theorem State.modReference_sent (s : State) (b : Berth) (f : Reference → Reference) : (s.modReference b f).sent = s.sent := rfl

@[simp] theorem State.modReference_freeCount (s : State) (b : Berth) (f : Reference → Reference) : (s.modReference b f).freeCount = s.freeCount := rfl

@[simp] theorem State.modReference_pending (s : State) (b : Berth) (f : Reference → Reference) : (s.modReference b f).pending = s.pending := rfl

@[simp] theorem State.modSync_now (s : State) (b : Berth) (f : Synchroniser → Synchroniser) : (s.modSync b f).now = s.now := rfl

@[simp] theorem State.modSync_resetHeld (s : State) (b : Berth) (f : Synchroniser → Synchroniser) : (s.modSync b f).resetHeld = s.resetHeld := rfl

@[simp] theorem State.modSync_links (s : State) (b : Berth) (f : Synchroniser → Synchroniser) : (s.modSync b f).links = s.links := rfl

@[simp] theorem State.modSync_berths (s : State) (b : Berth) (f : Synchroniser → Synchroniser) : (s.modSync b f).berths = s.berths := rfl

@[simp] theorem State.modSync_units (s : State) (b : Berth) (f : Synchroniser → Synchroniser) : (s.modSync b f).units = s.units := rfl

@[simp] theorem State.modSync_pool (s : State) (b : Berth) (f : Synchroniser → Synchroniser) : (s.modSync b f).pool = s.pool := rfl

@[simp] theorem State.modSync_references (s : State) (b : Berth) (f : Synchroniser → Synchroniser) : (s.modSync b f).references = s.references := rfl

@[simp] theorem State.modSync_capture (s : State) (b : Berth) (f : Synchroniser → Synchroniser) : (s.modSync b f).capture = s.capture := rfl

@[simp] theorem State.modSync_port (s : State) (b : Berth) (f : Synchroniser → Synchroniser) : (s.modSync b f).port = s.port := rfl

@[simp] theorem State.modSync_ramps (s : State) (b : Berth) (f : Synchroniser → Synchroniser) : (s.modSync b f).ramps = s.ramps := rfl

@[simp] theorem State.modSync_budget (s : State) (b : Berth) (f : Synchroniser → Synchroniser) : (s.modSync b f).budget = s.budget := rfl

@[simp] theorem State.modSync_sections (s : State) (b : Berth) (f : Synchroniser → Synchroniser) : (s.modSync b f).sections = s.sections := rfl

@[simp] theorem State.modSync_meters (s : State) (b : Berth) (f : Synchroniser → Synchroniser) : (s.modSync b f).meters = s.meters := rfl

@[simp] theorem State.modSync_tariff (s : State) (b : Berth) (f : Synchroniser → Synchroniser) : (s.modSync b f).tariff = s.tariff := rfl

@[simp] theorem State.modSync_records (s : State) (b : Berth) (f : Synchroniser → Synchroniser) : (s.modSync b f).records = s.records := rfl

@[simp] theorem State.modSync_settings (s : State) (b : Berth) (f : Synchroniser → Synchroniser) : (s.modSync b f).settings = s.settings := rfl

@[simp] theorem State.modSync_sent (s : State) (b : Berth) (f : Synchroniser → Synchroniser) : (s.modSync b f).sent = s.sent := rfl

@[simp] theorem State.modSync_freeCount (s : State) (b : Berth) (f : Synchroniser → Synchroniser) : (s.modSync b f).freeCount = s.freeCount := rfl

@[simp] theorem State.modSync_pending (s : State) (b : Berth) (f : Synchroniser → Synchroniser) : (s.modSync b f).pending = s.pending := rfl

@[simp] theorem State.modRamp_now (s : State) (b : Berth) (f : Ramp → Ramp) : (s.modRamp b f).now = s.now := rfl

@[simp] theorem State.modRamp_resetHeld (s : State) (b : Berth) (f : Ramp → Ramp) : (s.modRamp b f).resetHeld = s.resetHeld := rfl

@[simp] theorem State.modRamp_links (s : State) (b : Berth) (f : Ramp → Ramp) : (s.modRamp b f).links = s.links := rfl

@[simp] theorem State.modRamp_berths (s : State) (b : Berth) (f : Ramp → Ramp) : (s.modRamp b f).berths = s.berths := rfl

@[simp] theorem State.modRamp_units (s : State) (b : Berth) (f : Ramp → Ramp) : (s.modRamp b f).units = s.units := rfl

@[simp] theorem State.modRamp_pool (s : State) (b : Berth) (f : Ramp → Ramp) : (s.modRamp b f).pool = s.pool := rfl

@[simp] theorem State.modRamp_references (s : State) (b : Berth) (f : Ramp → Ramp) : (s.modRamp b f).references = s.references := rfl

@[simp] theorem State.modRamp_capture (s : State) (b : Berth) (f : Ramp → Ramp) : (s.modRamp b f).capture = s.capture := rfl

@[simp] theorem State.modRamp_port (s : State) (b : Berth) (f : Ramp → Ramp) : (s.modRamp b f).port = s.port := rfl

@[simp] theorem State.modRamp_syncs (s : State) (b : Berth) (f : Ramp → Ramp) : (s.modRamp b f).syncs = s.syncs := rfl

@[simp] theorem State.modRamp_budget (s : State) (b : Berth) (f : Ramp → Ramp) : (s.modRamp b f).budget = s.budget := rfl

@[simp] theorem State.modRamp_sections (s : State) (b : Berth) (f : Ramp → Ramp) : (s.modRamp b f).sections = s.sections := rfl

@[simp] theorem State.modRamp_meters (s : State) (b : Berth) (f : Ramp → Ramp) : (s.modRamp b f).meters = s.meters := rfl

@[simp] theorem State.modRamp_tariff (s : State) (b : Berth) (f : Ramp → Ramp) : (s.modRamp b f).tariff = s.tariff := rfl

@[simp] theorem State.modRamp_records (s : State) (b : Berth) (f : Ramp → Ramp) : (s.modRamp b f).records = s.records := rfl

@[simp] theorem State.modRamp_settings (s : State) (b : Berth) (f : Ramp → Ramp) : (s.modRamp b f).settings = s.settings := rfl

@[simp] theorem State.modRamp_sent (s : State) (b : Berth) (f : Ramp → Ramp) : (s.modRamp b f).sent = s.sent := rfl

@[simp] theorem State.modRamp_freeCount (s : State) (b : Berth) (f : Ramp → Ramp) : (s.modRamp b f).freeCount = s.freeCount := rfl

@[simp] theorem State.modRamp_pending (s : State) (b : Berth) (f : Ramp → Ramp) : (s.modRamp b f).pending = s.pending := rfl

@[simp] theorem State.modSec_now (s : State) (b : Berth) (f : Section → Section) : (s.modSec b f).now = s.now := rfl

@[simp] theorem State.modSec_resetHeld (s : State) (b : Berth) (f : Section → Section) : (s.modSec b f).resetHeld = s.resetHeld := rfl

@[simp] theorem State.modSec_links (s : State) (b : Berth) (f : Section → Section) : (s.modSec b f).links = s.links := rfl

@[simp] theorem State.modSec_berths (s : State) (b : Berth) (f : Section → Section) : (s.modSec b f).berths = s.berths := rfl

@[simp] theorem State.modSec_units (s : State) (b : Berth) (f : Section → Section) : (s.modSec b f).units = s.units := rfl

@[simp] theorem State.modSec_pool (s : State) (b : Berth) (f : Section → Section) : (s.modSec b f).pool = s.pool := rfl

@[simp] theorem State.modSec_references (s : State) (b : Berth) (f : Section → Section) : (s.modSec b f).references = s.references := rfl

@[simp] theorem State.modSec_capture (s : State) (b : Berth) (f : Section → Section) : (s.modSec b f).capture = s.capture := rfl

@[simp] theorem State.modSec_port (s : State) (b : Berth) (f : Section → Section) : (s.modSec b f).port = s.port := rfl

@[simp] theorem State.modSec_syncs (s : State) (b : Berth) (f : Section → Section) : (s.modSec b f).syncs = s.syncs := rfl

@[simp] theorem State.modSec_ramps (s : State) (b : Berth) (f : Section → Section) : (s.modSec b f).ramps = s.ramps := rfl

@[simp] theorem State.modSec_budget (s : State) (b : Berth) (f : Section → Section) : (s.modSec b f).budget = s.budget := rfl

@[simp] theorem State.modSec_meters (s : State) (b : Berth) (f : Section → Section) : (s.modSec b f).meters = s.meters := rfl

@[simp] theorem State.modSec_tariff (s : State) (b : Berth) (f : Section → Section) : (s.modSec b f).tariff = s.tariff := rfl

@[simp] theorem State.modSec_records (s : State) (b : Berth) (f : Section → Section) : (s.modSec b f).records = s.records := rfl

@[simp] theorem State.modSec_settings (s : State) (b : Berth) (f : Section → Section) : (s.modSec b f).settings = s.settings := rfl

@[simp] theorem State.modSec_sent (s : State) (b : Berth) (f : Section → Section) : (s.modSec b f).sent = s.sent := rfl

@[simp] theorem State.modSec_freeCount (s : State) (b : Berth) (f : Section → Section) : (s.modSec b f).freeCount = s.freeCount := rfl

@[simp] theorem State.modSec_pending (s : State) (b : Berth) (f : Section → Section) : (s.modSec b f).pending = s.pending := rfl

@[simp] theorem State.modMeter_now (s : State) (b : Berth) (f : Meter → Meter) : (s.modMeter b f).now = s.now := rfl

@[simp] theorem State.modMeter_resetHeld (s : State) (b : Berth) (f : Meter → Meter) : (s.modMeter b f).resetHeld = s.resetHeld := rfl

@[simp] theorem State.modMeter_links (s : State) (b : Berth) (f : Meter → Meter) : (s.modMeter b f).links = s.links := rfl

@[simp] theorem State.modMeter_berths (s : State) (b : Berth) (f : Meter → Meter) : (s.modMeter b f).berths = s.berths := rfl

@[simp] theorem State.modMeter_units (s : State) (b : Berth) (f : Meter → Meter) : (s.modMeter b f).units = s.units := rfl

@[simp] theorem State.modMeter_pool (s : State) (b : Berth) (f : Meter → Meter) : (s.modMeter b f).pool = s.pool := rfl

@[simp] theorem State.modMeter_references (s : State) (b : Berth) (f : Meter → Meter) : (s.modMeter b f).references = s.references := rfl

@[simp] theorem State.modMeter_capture (s : State) (b : Berth) (f : Meter → Meter) : (s.modMeter b f).capture = s.capture := rfl

@[simp] theorem State.modMeter_port (s : State) (b : Berth) (f : Meter → Meter) : (s.modMeter b f).port = s.port := rfl

@[simp] theorem State.modMeter_syncs (s : State) (b : Berth) (f : Meter → Meter) : (s.modMeter b f).syncs = s.syncs := rfl

@[simp] theorem State.modMeter_ramps (s : State) (b : Berth) (f : Meter → Meter) : (s.modMeter b f).ramps = s.ramps := rfl

@[simp] theorem State.modMeter_budget (s : State) (b : Berth) (f : Meter → Meter) : (s.modMeter b f).budget = s.budget := rfl

@[simp] theorem State.modMeter_sections (s : State) (b : Berth) (f : Meter → Meter) : (s.modMeter b f).sections = s.sections := rfl

@[simp] theorem State.modMeter_tariff (s : State) (b : Berth) (f : Meter → Meter) : (s.modMeter b f).tariff = s.tariff := rfl

@[simp] theorem State.modMeter_records (s : State) (b : Berth) (f : Meter → Meter) : (s.modMeter b f).records = s.records := rfl

@[simp] theorem State.modMeter_settings (s : State) (b : Berth) (f : Meter → Meter) : (s.modMeter b f).settings = s.settings := rfl

@[simp] theorem State.modMeter_sent (s : State) (b : Berth) (f : Meter → Meter) : (s.modMeter b f).sent = s.sent := rfl

@[simp] theorem State.modMeter_freeCount (s : State) (b : Berth) (f : Meter → Meter) : (s.modMeter b f).freeCount = s.freeCount := rfl

@[simp] theorem State.modMeter_pending (s : State) (b : Berth) (f : Meter → Meter) : (s.modMeter b f).pending = s.pending := rfl

@[simp] theorem State.modModule_now (s : State) (m : ModuleId) (f : Module → Module) : (s.modModule m f).now = s.now := rfl

@[simp] theorem State.modModule_resetHeld (s : State) (m : ModuleId) (f : Module → Module) : (s.modModule m f).resetHeld = s.resetHeld := rfl

@[simp] theorem State.modModule_links (s : State) (m : ModuleId) (f : Module → Module) : (s.modModule m f).links = s.links := rfl

@[simp] theorem State.modModule_berths (s : State) (m : ModuleId) (f : Module → Module) : (s.modModule m f).berths = s.berths := rfl

@[simp] theorem State.modModule_units (s : State) (m : ModuleId) (f : Module → Module) : (s.modModule m f).units = s.units := rfl

@[simp] theorem State.modModule_references (s : State) (m : ModuleId) (f : Module → Module) : (s.modModule m f).references = s.references := rfl

@[simp] theorem State.modModule_capture (s : State) (m : ModuleId) (f : Module → Module) : (s.modModule m f).capture = s.capture := rfl

@[simp] theorem State.modModule_port (s : State) (m : ModuleId) (f : Module → Module) : (s.modModule m f).port = s.port := rfl

@[simp] theorem State.modModule_syncs (s : State) (m : ModuleId) (f : Module → Module) : (s.modModule m f).syncs = s.syncs := rfl

@[simp] theorem State.modModule_ramps (s : State) (m : ModuleId) (f : Module → Module) : (s.modModule m f).ramps = s.ramps := rfl

@[simp] theorem State.modModule_budget (s : State) (m : ModuleId) (f : Module → Module) : (s.modModule m f).budget = s.budget := rfl

@[simp] theorem State.modModule_sections (s : State) (m : ModuleId) (f : Module → Module) : (s.modModule m f).sections = s.sections := rfl

@[simp] theorem State.modModule_meters (s : State) (m : ModuleId) (f : Module → Module) : (s.modModule m f).meters = s.meters := rfl

@[simp] theorem State.modModule_tariff (s : State) (m : ModuleId) (f : Module → Module) : (s.modModule m f).tariff = s.tariff := rfl

@[simp] theorem State.modModule_records (s : State) (m : ModuleId) (f : Module → Module) : (s.modModule m f).records = s.records := rfl

@[simp] theorem State.modModule_settings (s : State) (m : ModuleId) (f : Module → Module) : (s.modModule m f).settings = s.settings := rfl

@[simp] theorem State.modModule_sent (s : State) (m : ModuleId) (f : Module → Module) : (s.modModule m f).sent = s.sent := rfl

@[simp] theorem State.modModule_freeCount (s : State) (m : ModuleId) (f : Module → Module) : (s.modModule m f).freeCount = s.freeCount := rfl

@[simp] theorem State.modModule_pending (s : State) (m : ModuleId) (f : Module → Module) : (s.modModule m f).pending = s.pending := rfl

@[simp] theorem State.modPool_now (s : State) (f : ModulePool → ModulePool) : (s.modPool f).now = s.now := rfl

@[simp] theorem State.modPool_resetHeld (s : State) (f : ModulePool → ModulePool) : (s.modPool f).resetHeld = s.resetHeld := rfl

@[simp] theorem State.modPool_links (s : State) (f : ModulePool → ModulePool) : (s.modPool f).links = s.links := rfl

@[simp] theorem State.modPool_berths (s : State) (f : ModulePool → ModulePool) : (s.modPool f).berths = s.berths := rfl

@[simp] theorem State.modPool_units (s : State) (f : ModulePool → ModulePool) : (s.modPool f).units = s.units := rfl

@[simp] theorem State.modPool_references (s : State) (f : ModulePool → ModulePool) : (s.modPool f).references = s.references := rfl

@[simp] theorem State.modPool_capture (s : State) (f : ModulePool → ModulePool) : (s.modPool f).capture = s.capture := rfl

@[simp] theorem State.modPool_port (s : State) (f : ModulePool → ModulePool) : (s.modPool f).port = s.port := rfl

@[simp] theorem State.modPool_syncs (s : State) (f : ModulePool → ModulePool) : (s.modPool f).syncs = s.syncs := rfl

@[simp] theorem State.modPool_ramps (s : State) (f : ModulePool → ModulePool) : (s.modPool f).ramps = s.ramps := rfl

@[simp] theorem State.modPool_budget (s : State) (f : ModulePool → ModulePool) : (s.modPool f).budget = s.budget := rfl

@[simp] theorem State.modPool_sections (s : State) (f : ModulePool → ModulePool) : (s.modPool f).sections = s.sections := rfl

@[simp] theorem State.modPool_meters (s : State) (f : ModulePool → ModulePool) : (s.modPool f).meters = s.meters := rfl

@[simp] theorem State.modPool_tariff (s : State) (f : ModulePool → ModulePool) : (s.modPool f).tariff = s.tariff := rfl

@[simp] theorem State.modPool_records (s : State) (f : ModulePool → ModulePool) : (s.modPool f).records = s.records := rfl

@[simp] theorem State.modPool_settings (s : State) (f : ModulePool → ModulePool) : (s.modPool f).settings = s.settings := rfl

@[simp] theorem State.modPool_sent (s : State) (f : ModulePool → ModulePool) : (s.modPool f).sent = s.sent := rfl

@[simp] theorem State.modPool_freeCount (s : State) (f : ModulePool → ModulePool) : (s.modPool f).freeCount = s.freeCount := rfl

@[simp] theorem State.modPool_pending (s : State) (f : ModulePool → ModulePool) : (s.modPool f).pending = s.pending := rfl

@[simp] theorem State.modRecords_now (s : State) (f : RecordPool → RecordPool) : (s.modRecords f).now = s.now := rfl

@[simp] theorem State.modRecords_resetHeld (s : State) (f : RecordPool → RecordPool) : (s.modRecords f).resetHeld = s.resetHeld := rfl

@[simp] theorem State.modRecords_links (s : State) (f : RecordPool → RecordPool) : (s.modRecords f).links = s.links := rfl

@[simp] theorem State.modRecords_berths (s : State) (f : RecordPool → RecordPool) : (s.modRecords f).berths = s.berths := rfl

@[simp] theorem State.modRecords_units (s : State) (f : RecordPool → RecordPool) : (s.modRecords f).units = s.units := rfl

@[simp] theorem State.modRecords_pool (s : State) (f : RecordPool → RecordPool) : (s.modRecords f).pool = s.pool := rfl

@[simp] theorem State.modRecords_references (s : State) (f : RecordPool → RecordPool) : (s.modRecords f).references = s.references := rfl

@[simp] theorem State.modRecords_capture (s : State) (f : RecordPool → RecordPool) : (s.modRecords f).capture = s.capture := rfl

@[simp] theorem State.modRecords_port (s : State) (f : RecordPool → RecordPool) : (s.modRecords f).port = s.port := rfl

@[simp] theorem State.modRecords_syncs (s : State) (f : RecordPool → RecordPool) : (s.modRecords f).syncs = s.syncs := rfl

@[simp] theorem State.modRecords_ramps (s : State) (f : RecordPool → RecordPool) : (s.modRecords f).ramps = s.ramps := rfl

@[simp] theorem State.modRecords_budget (s : State) (f : RecordPool → RecordPool) : (s.modRecords f).budget = s.budget := rfl

@[simp] theorem State.modRecords_sections (s : State) (f : RecordPool → RecordPool) : (s.modRecords f).sections = s.sections := rfl

@[simp] theorem State.modRecords_meters (s : State) (f : RecordPool → RecordPool) : (s.modRecords f).meters = s.meters := rfl

@[simp] theorem State.modRecords_tariff (s : State) (f : RecordPool → RecordPool) : (s.modRecords f).tariff = s.tariff := rfl

@[simp] theorem State.modRecords_settings (s : State) (f : RecordPool → RecordPool) : (s.modRecords f).settings = s.settings := rfl

@[simp] theorem State.modRecords_sent (s : State) (f : RecordPool → RecordPool) : (s.modRecords f).sent = s.sent := rfl

@[simp] theorem State.modRecords_freeCount (s : State) (f : RecordPool → RecordPool) : (s.modRecords f).freeCount = s.freeCount := rfl

@[simp] theorem State.modRecords_pending (s : State) (f : RecordPool → RecordPool) : (s.modRecords f).pending = s.pending := rfl

@[simp] theorem State.modPort_now (s : State) (f : SamplePort → SamplePort) : (s.modPort f).now = s.now := rfl

@[simp] theorem State.modPort_resetHeld (s : State) (f : SamplePort → SamplePort) : (s.modPort f).resetHeld = s.resetHeld := rfl

@[simp] theorem State.modPort_links (s : State) (f : SamplePort → SamplePort) : (s.modPort f).links = s.links := rfl

@[simp] theorem State.modPort_berths (s : State) (f : SamplePort → SamplePort) : (s.modPort f).berths = s.berths := rfl

@[simp] theorem State.modPort_units (s : State) (f : SamplePort → SamplePort) : (s.modPort f).units = s.units := rfl

@[simp] theorem State.modPort_pool (s : State) (f : SamplePort → SamplePort) : (s.modPort f).pool = s.pool := rfl

@[simp] theorem State.modPort_references (s : State) (f : SamplePort → SamplePort) : (s.modPort f).references = s.references := rfl

@[simp] theorem State.modPort_capture (s : State) (f : SamplePort → SamplePort) : (s.modPort f).capture = s.capture := rfl

@[simp] theorem State.modPort_syncs (s : State) (f : SamplePort → SamplePort) : (s.modPort f).syncs = s.syncs := rfl

@[simp] theorem State.modPort_ramps (s : State) (f : SamplePort → SamplePort) : (s.modPort f).ramps = s.ramps := rfl

@[simp] theorem State.modPort_budget (s : State) (f : SamplePort → SamplePort) : (s.modPort f).budget = s.budget := rfl

@[simp] theorem State.modPort_sections (s : State) (f : SamplePort → SamplePort) : (s.modPort f).sections = s.sections := rfl

@[simp] theorem State.modPort_meters (s : State) (f : SamplePort → SamplePort) : (s.modPort f).meters = s.meters := rfl

@[simp] theorem State.modPort_tariff (s : State) (f : SamplePort → SamplePort) : (s.modPort f).tariff = s.tariff := rfl

@[simp] theorem State.modPort_records (s : State) (f : SamplePort → SamplePort) : (s.modPort f).records = s.records := rfl

@[simp] theorem State.modPort_settings (s : State) (f : SamplePort → SamplePort) : (s.modPort f).settings = s.settings := rfl

@[simp] theorem State.modPort_sent (s : State) (f : SamplePort → SamplePort) : (s.modPort f).sent = s.sent := rfl

@[simp] theorem State.modPort_freeCount (s : State) (f : SamplePort → SamplePort) : (s.modPort f).freeCount = s.freeCount := rfl

@[simp] theorem State.modPort_pending (s : State) (f : SamplePort → SamplePort) : (s.modPort f).pending = s.pending := rfl

@[simp] theorem State.modSettings_now (s : State) (f : Settings → Settings) : (s.modSettings f).now = s.now := rfl

@[simp] theorem State.modSettings_resetHeld (s : State) (f : Settings → Settings) : (s.modSettings f).resetHeld = s.resetHeld := rfl

@[simp] theorem State.modSettings_links (s : State) (f : Settings → Settings) : (s.modSettings f).links = s.links := rfl

@[simp] theorem State.modSettings_berths (s : State) (f : Settings → Settings) : (s.modSettings f).berths = s.berths := rfl

@[simp] theorem State.modSettings_units (s : State) (f : Settings → Settings) : (s.modSettings f).units = s.units := rfl

@[simp] theorem State.modSettings_pool (s : State) (f : Settings → Settings) : (s.modSettings f).pool = s.pool := rfl

@[simp] theorem State.modSettings_references (s : State) (f : Settings → Settings) : (s.modSettings f).references = s.references := rfl

@[simp] theorem State.modSettings_capture (s : State) (f : Settings → Settings) : (s.modSettings f).capture = s.capture := rfl

@[simp] theorem State.modSettings_port (s : State) (f : Settings → Settings) : (s.modSettings f).port = s.port := rfl

@[simp] theorem State.modSettings_syncs (s : State) (f : Settings → Settings) : (s.modSettings f).syncs = s.syncs := rfl

@[simp] theorem State.modSettings_ramps (s : State) (f : Settings → Settings) : (s.modSettings f).ramps = s.ramps := rfl

@[simp] theorem State.modSettings_budget (s : State) (f : Settings → Settings) : (s.modSettings f).budget = s.budget := rfl

@[simp] theorem State.modSettings_sections (s : State) (f : Settings → Settings) : (s.modSettings f).sections = s.sections := rfl

@[simp] theorem State.modSettings_meters (s : State) (f : Settings → Settings) : (s.modSettings f).meters = s.meters := rfl

@[simp] theorem State.modSettings_tariff (s : State) (f : Settings → Settings) : (s.modSettings f).tariff = s.tariff := rfl

@[simp] theorem State.modSettings_records (s : State) (f : Settings → Settings) : (s.modSettings f).records = s.records := rfl

@[simp] theorem State.modSettings_sent (s : State) (f : Settings → Settings) : (s.modSettings f).sent = s.sent := rfl

@[simp] theorem State.modSettings_freeCount (s : State) (f : Settings → Settings) : (s.modSettings f).freeCount = s.freeCount := rfl

@[simp] theorem State.modSettings_pending (s : State) (f : Settings → Settings) : (s.modSettings f).pending = s.pending := rfl

@[simp] theorem State.modLink_now (s : State) (l : Link) (f : LinkState → LinkState) : (s.modLink l f).now = s.now := rfl

@[simp] theorem State.modLink_resetHeld (s : State) (l : Link) (f : LinkState → LinkState) : (s.modLink l f).resetHeld = s.resetHeld := rfl

@[simp] theorem State.modLink_berths (s : State) (l : Link) (f : LinkState → LinkState) : (s.modLink l f).berths = s.berths := rfl

@[simp] theorem State.modLink_units (s : State) (l : Link) (f : LinkState → LinkState) : (s.modLink l f).units = s.units := rfl

@[simp] theorem State.modLink_pool (s : State) (l : Link) (f : LinkState → LinkState) : (s.modLink l f).pool = s.pool := rfl

@[simp] theorem State.modLink_references (s : State) (l : Link) (f : LinkState → LinkState) : (s.modLink l f).references = s.references := rfl

@[simp] theorem State.modLink_capture (s : State) (l : Link) (f : LinkState → LinkState) : (s.modLink l f).capture = s.capture := rfl

@[simp] theorem State.modLink_port (s : State) (l : Link) (f : LinkState → LinkState) : (s.modLink l f).port = s.port := rfl

@[simp] theorem State.modLink_syncs (s : State) (l : Link) (f : LinkState → LinkState) : (s.modLink l f).syncs = s.syncs := rfl

@[simp] theorem State.modLink_ramps (s : State) (l : Link) (f : LinkState → LinkState) : (s.modLink l f).ramps = s.ramps := rfl

@[simp] theorem State.modLink_budget (s : State) (l : Link) (f : LinkState → LinkState) : (s.modLink l f).budget = s.budget := rfl

@[simp] theorem State.modLink_sections (s : State) (l : Link) (f : LinkState → LinkState) : (s.modLink l f).sections = s.sections := rfl

@[simp] theorem State.modLink_meters (s : State) (l : Link) (f : LinkState → LinkState) : (s.modLink l f).meters = s.meters := rfl

@[simp] theorem State.modLink_tariff (s : State) (l : Link) (f : LinkState → LinkState) : (s.modLink l f).tariff = s.tariff := rfl

@[simp] theorem State.modLink_records (s : State) (l : Link) (f : LinkState → LinkState) : (s.modLink l f).records = s.records := rfl

@[simp] theorem State.modLink_settings (s : State) (l : Link) (f : LinkState → LinkState) : (s.modLink l f).settings = s.settings := rfl

@[simp] theorem State.modLink_sent (s : State) (l : Link) (f : LinkState → LinkState) : (s.modLink l f).sent = s.sent := rfl

@[simp] theorem State.modLink_freeCount (s : State) (l : Link) (f : LinkState → LinkState) : (s.modLink l f).freeCount = s.freeCount := rfl

@[simp] theorem State.modLink_pending (s : State) (l : Link) (f : LinkState → LinkState) : (s.modLink l f).pending = s.pending := rfl

@[simp] theorem State.setReservation_now (s : State) (b : Berth) (v : Nat) : (s.setReservation b v).now = s.now := rfl

@[simp] theorem State.setReservation_resetHeld (s : State) (b : Berth) (v : Nat) : (s.setReservation b v).resetHeld = s.resetHeld := rfl

@[simp] theorem State.setReservation_links (s : State) (b : Berth) (v : Nat) : (s.setReservation b v).links = s.links := rfl

@[simp] theorem State.setReservation_berths (s : State) (b : Berth) (v : Nat) : (s.setReservation b v).berths = s.berths := rfl

@[simp] theorem State.setReservation_units (s : State) (b : Berth) (v : Nat) : (s.setReservation b v).units = s.units := rfl

@[simp] theorem State.setReservation_pool (s : State) (b : Berth) (v : Nat) : (s.setReservation b v).pool = s.pool := rfl

@[simp] theorem State.setReservation_references (s : State) (b : Berth) (v : Nat) : (s.setReservation b v).references = s.references := rfl

@[simp] theorem State.setReservation_capture (s : State) (b : Berth) (v : Nat) : (s.setReservation b v).capture = s.capture := rfl

@[simp] theorem State.setReservation_port (s : State) (b : Berth) (v : Nat) : (s.setReservation b v).port = s.port := rfl

@[simp] theorem State.setReservation_syncs (s : State) (b : Berth) (v : Nat) : (s.setReservation b v).syncs = s.syncs := rfl

@[simp] theorem State.setReservation_ramps (s : State) (b : Berth) (v : Nat) : (s.setReservation b v).ramps = s.ramps := rfl

@[simp] theorem State.setReservation_sections (s : State) (b : Berth) (v : Nat) : (s.setReservation b v).sections = s.sections := rfl

@[simp] theorem State.setReservation_meters (s : State) (b : Berth) (v : Nat) : (s.setReservation b v).meters = s.meters := rfl

@[simp] theorem State.setReservation_tariff (s : State) (b : Berth) (v : Nat) : (s.setReservation b v).tariff = s.tariff := rfl

@[simp] theorem State.setReservation_records (s : State) (b : Berth) (v : Nat) : (s.setReservation b v).records = s.records := rfl

@[simp] theorem State.setReservation_settings (s : State) (b : Berth) (v : Nat) : (s.setReservation b v).settings = s.settings := rfl

@[simp] theorem State.setReservation_sent (s : State) (b : Berth) (v : Nat) : (s.setReservation b v).sent = s.sent := rfl

@[simp] theorem State.setReservation_freeCount (s : State) (b : Berth) (v : Nat) : (s.setReservation b v).freeCount = s.freeCount := rfl

@[simp] theorem State.setReservation_pending (s : State) (b : Berth) (v : Nat) : (s.setReservation b v).pending = s.pending := rfl

@[simp] theorem State.setWaiting_now (s : State) (l : List WaitEntry) : (s.setWaiting l).now = s.now := rfl

@[simp] theorem State.setWaiting_resetHeld (s : State) (l : List WaitEntry) : (s.setWaiting l).resetHeld = s.resetHeld := rfl

@[simp] theorem State.setWaiting_links (s : State) (l : List WaitEntry) : (s.setWaiting l).links = s.links := rfl

@[simp] theorem State.setWaiting_berths (s : State) (l : List WaitEntry) : (s.setWaiting l).berths = s.berths := rfl

@[simp] theorem State.setWaiting_units (s : State) (l : List WaitEntry) : (s.setWaiting l).units = s.units := rfl

@[simp] theorem State.setWaiting_pool (s : State) (l : List WaitEntry) : (s.setWaiting l).pool = s.pool := rfl

@[simp] theorem State.setWaiting_references (s : State) (l : List WaitEntry) : (s.setWaiting l).references = s.references := rfl

@[simp] theorem State.setWaiting_capture (s : State) (l : List WaitEntry) : (s.setWaiting l).capture = s.capture := rfl

@[simp] theorem State.setWaiting_port (s : State) (l : List WaitEntry) : (s.setWaiting l).port = s.port := rfl

@[simp] theorem State.setWaiting_syncs (s : State) (l : List WaitEntry) : (s.setWaiting l).syncs = s.syncs := rfl

@[simp] theorem State.setWaiting_ramps (s : State) (l : List WaitEntry) : (s.setWaiting l).ramps = s.ramps := rfl

@[simp] theorem State.setWaiting_sections (s : State) (l : List WaitEntry) : (s.setWaiting l).sections = s.sections := rfl

@[simp] theorem State.setWaiting_meters (s : State) (l : List WaitEntry) : (s.setWaiting l).meters = s.meters := rfl

@[simp] theorem State.setWaiting_tariff (s : State) (l : List WaitEntry) : (s.setWaiting l).tariff = s.tariff := rfl

@[simp] theorem State.setWaiting_records (s : State) (l : List WaitEntry) : (s.setWaiting l).records = s.records := rfl

@[simp] theorem State.setWaiting_settings (s : State) (l : List WaitEntry) : (s.setWaiting l).settings = s.settings := rfl

@[simp] theorem State.setWaiting_sent (s : State) (l : List WaitEntry) : (s.setWaiting l).sent = s.sent := rfl

@[simp] theorem State.setWaiting_freeCount (s : State) (l : List WaitEntry) : (s.setWaiting l).freeCount = s.freeCount := rfl

@[simp] theorem State.setWaiting_pending (s : State) (l : List WaitEntry) : (s.setWaiting l).pending = s.pending := rfl

@[simp] theorem State.berth_modBerth_self (s : State) (b : Berth) (f : BerthRecord → BerthRecord) :
    (s.modBerth b f).berth b = f (s.berth b) := by
  cases b <;> rfl

theorem State.berth_modBerth (s : State) (b c : Berth) (f : BerthRecord → BerthRecord) :
    (s.modBerth b f).berth c = if c = b then f (s.berth c) else s.berth c := by
  cases b <;> cases c <;> rfl

@[simp] theorem State.berth_modBerth_of_ne (s : State) (b c : Berth) (f : BerthRecord → BerthRecord) (h : c ≠ b) :
    (s.modBerth b f).berth c = s.berth c := by
  rw [State.berth_modBerth, if_neg h]

@[simp] theorem State.unit_modUnit_self (s : State) (b : Berth) (f : AgreementUnit → AgreementUnit) :
    (s.modUnit b f).unit b = f (s.unit b) := by
  cases b <;> rfl

theorem State.unit_modUnit (s : State) (b c : Berth) (f : AgreementUnit → AgreementUnit) :
    (s.modUnit b f).unit c = if c = b then f (s.unit c) else s.unit c := by
  cases b <;> cases c <;> rfl

@[simp] theorem State.unit_modUnit_of_ne (s : State) (b c : Berth) (f : AgreementUnit → AgreementUnit) (h : c ≠ b) :
    (s.modUnit b f).unit c = s.unit c := by
  rw [State.unit_modUnit, if_neg h]

@[simp] theorem State.reference_modReference_self (s : State) (b : Berth) (f : Reference → Reference) :
    (s.modReference b f).reference b = f (s.reference b) := by
  cases b <;> rfl

theorem State.reference_modReference (s : State) (b c : Berth) (f : Reference → Reference) :
    (s.modReference b f).reference c = if c = b then f (s.reference c) else s.reference c := by
  cases b <;> cases c <;> rfl

@[simp] theorem State.reference_modReference_of_ne (s : State) (b c : Berth) (f : Reference → Reference) (h : c ≠ b) :
    (s.modReference b f).reference c = s.reference c := by
  rw [State.reference_modReference, if_neg h]

@[simp] theorem State.sync_modSync_self (s : State) (b : Berth) (f : Synchroniser → Synchroniser) :
    (s.modSync b f).sync b = f (s.sync b) := by
  cases b <;> rfl

theorem State.sync_modSync (s : State) (b c : Berth) (f : Synchroniser → Synchroniser) :
    (s.modSync b f).sync c = if c = b then f (s.sync c) else s.sync c := by
  cases b <;> cases c <;> rfl

@[simp] theorem State.sync_modSync_of_ne (s : State) (b c : Berth) (f : Synchroniser → Synchroniser) (h : c ≠ b) :
    (s.modSync b f).sync c = s.sync c := by
  rw [State.sync_modSync, if_neg h]

@[simp] theorem State.ramp_modRamp_self (s : State) (b : Berth) (f : Ramp → Ramp) :
    (s.modRamp b f).ramp b = f (s.ramp b) := by
  cases b <;> rfl

theorem State.ramp_modRamp (s : State) (b c : Berth) (f : Ramp → Ramp) :
    (s.modRamp b f).ramp c = if c = b then f (s.ramp c) else s.ramp c := by
  cases b <;> cases c <;> rfl

@[simp] theorem State.ramp_modRamp_of_ne (s : State) (b c : Berth) (f : Ramp → Ramp) (h : c ≠ b) :
    (s.modRamp b f).ramp c = s.ramp c := by
  rw [State.ramp_modRamp, if_neg h]

@[simp] theorem State.sec_modSec_self (s : State) (b : Berth) (f : Section → Section) :
    (s.modSec b f).sec b = f (s.sec b) := by
  cases b <;> rfl

theorem State.sec_modSec (s : State) (b c : Berth) (f : Section → Section) :
    (s.modSec b f).sec c = if c = b then f (s.sec c) else s.sec c := by
  cases b <;> cases c <;> rfl

@[simp] theorem State.sec_modSec_of_ne (s : State) (b c : Berth) (f : Section → Section) (h : c ≠ b) :
    (s.modSec b f).sec c = s.sec c := by
  rw [State.sec_modSec, if_neg h]

@[simp] theorem State.meter_modMeter_self (s : State) (b : Berth) (f : Meter → Meter) :
    (s.modMeter b f).meter b = f (s.meter b) := by
  cases b <;> rfl

theorem State.meter_modMeter (s : State) (b c : Berth) (f : Meter → Meter) :
    (s.modMeter b f).meter c = if c = b then f (s.meter c) else s.meter c := by
  cases b <;> cases c <;> rfl

@[simp] theorem State.meter_modMeter_of_ne (s : State) (b c : Berth) (f : Meter → Meter) (h : c ≠ b) :
    (s.modMeter b f).meter c = s.meter c := by
  rw [State.meter_modMeter, if_neg h]

@[simp] theorem State.berth_modUnit (s : State) (b c : Berth) (f : AgreementUnit → AgreementUnit) : (s.modUnit b f).berth c = s.berth c := rfl

@[simp] theorem State.berth_modReference (s : State) (b c : Berth) (f : Reference → Reference) : (s.modReference b f).berth c = s.berth c := rfl

@[simp] theorem State.berth_modSync (s : State) (b c : Berth) (f : Synchroniser → Synchroniser) : (s.modSync b f).berth c = s.berth c := rfl

@[simp] theorem State.berth_modRamp (s : State) (b c : Berth) (f : Ramp → Ramp) : (s.modRamp b f).berth c = s.berth c := rfl

@[simp] theorem State.berth_modSec (s : State) (b c : Berth) (f : Section → Section) : (s.modSec b f).berth c = s.berth c := rfl

@[simp] theorem State.berth_modMeter (s : State) (b c : Berth) (f : Meter → Meter) : (s.modMeter b f).berth c = s.berth c := rfl

@[simp] theorem State.unit_modBerth (s : State) (b c : Berth) (f : BerthRecord → BerthRecord) : (s.modBerth b f).unit c = s.unit c := rfl

@[simp] theorem State.unit_modReference (s : State) (b c : Berth) (f : Reference → Reference) : (s.modReference b f).unit c = s.unit c := rfl

@[simp] theorem State.unit_modSync (s : State) (b c : Berth) (f : Synchroniser → Synchroniser) : (s.modSync b f).unit c = s.unit c := rfl

@[simp] theorem State.unit_modRamp (s : State) (b c : Berth) (f : Ramp → Ramp) : (s.modRamp b f).unit c = s.unit c := rfl

@[simp] theorem State.unit_modSec (s : State) (b c : Berth) (f : Section → Section) : (s.modSec b f).unit c = s.unit c := rfl

@[simp] theorem State.unit_modMeter (s : State) (b c : Berth) (f : Meter → Meter) : (s.modMeter b f).unit c = s.unit c := rfl

@[simp] theorem State.reference_modBerth (s : State) (b c : Berth) (f : BerthRecord → BerthRecord) : (s.modBerth b f).reference c = s.reference c := rfl

@[simp] theorem State.reference_modUnit (s : State) (b c : Berth) (f : AgreementUnit → AgreementUnit) : (s.modUnit b f).reference c = s.reference c := rfl

@[simp] theorem State.reference_modSync (s : State) (b c : Berth) (f : Synchroniser → Synchroniser) : (s.modSync b f).reference c = s.reference c := rfl

@[simp] theorem State.reference_modRamp (s : State) (b c : Berth) (f : Ramp → Ramp) : (s.modRamp b f).reference c = s.reference c := rfl

@[simp] theorem State.reference_modSec (s : State) (b c : Berth) (f : Section → Section) : (s.modSec b f).reference c = s.reference c := rfl

@[simp] theorem State.reference_modMeter (s : State) (b c : Berth) (f : Meter → Meter) : (s.modMeter b f).reference c = s.reference c := rfl

@[simp] theorem State.sync_modBerth (s : State) (b c : Berth) (f : BerthRecord → BerthRecord) : (s.modBerth b f).sync c = s.sync c := rfl

@[simp] theorem State.sync_modUnit (s : State) (b c : Berth) (f : AgreementUnit → AgreementUnit) : (s.modUnit b f).sync c = s.sync c := rfl

@[simp] theorem State.sync_modReference (s : State) (b c : Berth) (f : Reference → Reference) : (s.modReference b f).sync c = s.sync c := rfl

@[simp] theorem State.sync_modRamp (s : State) (b c : Berth) (f : Ramp → Ramp) : (s.modRamp b f).sync c = s.sync c := rfl

@[simp] theorem State.sync_modSec (s : State) (b c : Berth) (f : Section → Section) : (s.modSec b f).sync c = s.sync c := rfl

@[simp] theorem State.sync_modMeter (s : State) (b c : Berth) (f : Meter → Meter) : (s.modMeter b f).sync c = s.sync c := rfl

@[simp] theorem State.ramp_modBerth (s : State) (b c : Berth) (f : BerthRecord → BerthRecord) : (s.modBerth b f).ramp c = s.ramp c := rfl

@[simp] theorem State.ramp_modUnit (s : State) (b c : Berth) (f : AgreementUnit → AgreementUnit) : (s.modUnit b f).ramp c = s.ramp c := rfl

@[simp] theorem State.ramp_modReference (s : State) (b c : Berth) (f : Reference → Reference) : (s.modReference b f).ramp c = s.ramp c := rfl

@[simp] theorem State.ramp_modSync (s : State) (b c : Berth) (f : Synchroniser → Synchroniser) : (s.modSync b f).ramp c = s.ramp c := rfl

@[simp] theorem State.ramp_modSec (s : State) (b c : Berth) (f : Section → Section) : (s.modSec b f).ramp c = s.ramp c := rfl

@[simp] theorem State.ramp_modMeter (s : State) (b c : Berth) (f : Meter → Meter) : (s.modMeter b f).ramp c = s.ramp c := rfl

@[simp] theorem State.sec_modBerth (s : State) (b c : Berth) (f : BerthRecord → BerthRecord) : (s.modBerth b f).sec c = s.sec c := rfl

@[simp] theorem State.sec_modUnit (s : State) (b c : Berth) (f : AgreementUnit → AgreementUnit) : (s.modUnit b f).sec c = s.sec c := rfl

@[simp] theorem State.sec_modReference (s : State) (b c : Berth) (f : Reference → Reference) : (s.modReference b f).sec c = s.sec c := rfl

@[simp] theorem State.sec_modSync (s : State) (b c : Berth) (f : Synchroniser → Synchroniser) : (s.modSync b f).sec c = s.sec c := rfl

@[simp] theorem State.sec_modRamp (s : State) (b c : Berth) (f : Ramp → Ramp) : (s.modRamp b f).sec c = s.sec c := rfl

@[simp] theorem State.sec_modMeter (s : State) (b c : Berth) (f : Meter → Meter) : (s.modMeter b f).sec c = s.sec c := rfl

@[simp] theorem State.meter_modBerth (s : State) (b c : Berth) (f : BerthRecord → BerthRecord) : (s.modBerth b f).meter c = s.meter c := rfl

@[simp] theorem State.meter_modUnit (s : State) (b c : Berth) (f : AgreementUnit → AgreementUnit) : (s.modUnit b f).meter c = s.meter c := rfl

@[simp] theorem State.meter_modReference (s : State) (b c : Berth) (f : Reference → Reference) : (s.modReference b f).meter c = s.meter c := rfl

@[simp] theorem State.meter_modSync (s : State) (b c : Berth) (f : Synchroniser → Synchroniser) : (s.modSync b f).meter c = s.meter c := rfl

@[simp] theorem State.meter_modRamp (s : State) (b c : Berth) (f : Ramp → Ramp) : (s.modRamp b f).meter c = s.meter c := rfl

@[simp] theorem State.meter_modSec (s : State) (b c : Berth) (f : Section → Section) : (s.modSec b f).meter c = s.meter c := rfl

@[simp] theorem State.berth_modModule (s : State) (m : ModuleId) (f : Module → Module) (c : Berth) : (s.modModule m f).berth c = s.berth c := rfl

@[simp] theorem State.unit_modModule (s : State) (m : ModuleId) (f : Module → Module) (c : Berth) : (s.modModule m f).unit c = s.unit c := rfl

@[simp] theorem State.reference_modModule (s : State) (m : ModuleId) (f : Module → Module) (c : Berth) : (s.modModule m f).reference c = s.reference c := rfl

@[simp] theorem State.sync_modModule (s : State) (m : ModuleId) (f : Module → Module) (c : Berth) : (s.modModule m f).sync c = s.sync c := rfl

@[simp] theorem State.ramp_modModule (s : State) (m : ModuleId) (f : Module → Module) (c : Berth) : (s.modModule m f).ramp c = s.ramp c := rfl

@[simp] theorem State.sec_modModule (s : State) (m : ModuleId) (f : Module → Module) (c : Berth) : (s.modModule m f).sec c = s.sec c := rfl

@[simp] theorem State.meter_modModule (s : State) (m : ModuleId) (f : Module → Module) (c : Berth) : (s.modModule m f).meter c = s.meter c := rfl

@[simp] theorem State.berth_modPool (s : State) (f : ModulePool → ModulePool) (c : Berth) : (s.modPool f).berth c = s.berth c := rfl

@[simp] theorem State.unit_modPool (s : State) (f : ModulePool → ModulePool) (c : Berth) : (s.modPool f).unit c = s.unit c := rfl

@[simp] theorem State.reference_modPool (s : State) (f : ModulePool → ModulePool) (c : Berth) : (s.modPool f).reference c = s.reference c := rfl

@[simp] theorem State.sync_modPool (s : State) (f : ModulePool → ModulePool) (c : Berth) : (s.modPool f).sync c = s.sync c := rfl

@[simp] theorem State.ramp_modPool (s : State) (f : ModulePool → ModulePool) (c : Berth) : (s.modPool f).ramp c = s.ramp c := rfl

@[simp] theorem State.sec_modPool (s : State) (f : ModulePool → ModulePool) (c : Berth) : (s.modPool f).sec c = s.sec c := rfl

@[simp] theorem State.meter_modPool (s : State) (f : ModulePool → ModulePool) (c : Berth) : (s.modPool f).meter c = s.meter c := rfl

@[simp] theorem State.berth_modRecords (s : State) (f : RecordPool → RecordPool) (c : Berth) : (s.modRecords f).berth c = s.berth c := rfl

@[simp] theorem State.unit_modRecords (s : State) (f : RecordPool → RecordPool) (c : Berth) : (s.modRecords f).unit c = s.unit c := rfl

@[simp] theorem State.reference_modRecords (s : State) (f : RecordPool → RecordPool) (c : Berth) : (s.modRecords f).reference c = s.reference c := rfl

@[simp] theorem State.sync_modRecords (s : State) (f : RecordPool → RecordPool) (c : Berth) : (s.modRecords f).sync c = s.sync c := rfl

@[simp] theorem State.ramp_modRecords (s : State) (f : RecordPool → RecordPool) (c : Berth) : (s.modRecords f).ramp c = s.ramp c := rfl

@[simp] theorem State.sec_modRecords (s : State) (f : RecordPool → RecordPool) (c : Berth) : (s.modRecords f).sec c = s.sec c := rfl

@[simp] theorem State.meter_modRecords (s : State) (f : RecordPool → RecordPool) (c : Berth) : (s.modRecords f).meter c = s.meter c := rfl

@[simp] theorem State.berth_modPort (s : State) (f : SamplePort → SamplePort) (c : Berth) : (s.modPort f).berth c = s.berth c := rfl

@[simp] theorem State.unit_modPort (s : State) (f : SamplePort → SamplePort) (c : Berth) : (s.modPort f).unit c = s.unit c := rfl

@[simp] theorem State.reference_modPort (s : State) (f : SamplePort → SamplePort) (c : Berth) : (s.modPort f).reference c = s.reference c := rfl

@[simp] theorem State.sync_modPort (s : State) (f : SamplePort → SamplePort) (c : Berth) : (s.modPort f).sync c = s.sync c := rfl

@[simp] theorem State.ramp_modPort (s : State) (f : SamplePort → SamplePort) (c : Berth) : (s.modPort f).ramp c = s.ramp c := rfl

@[simp] theorem State.sec_modPort (s : State) (f : SamplePort → SamplePort) (c : Berth) : (s.modPort f).sec c = s.sec c := rfl

@[simp] theorem State.meter_modPort (s : State) (f : SamplePort → SamplePort) (c : Berth) : (s.modPort f).meter c = s.meter c := rfl

@[simp] theorem State.berth_modSettings (s : State) (f : Settings → Settings) (c : Berth) : (s.modSettings f).berth c = s.berth c := rfl

@[simp] theorem State.unit_modSettings (s : State) (f : Settings → Settings) (c : Berth) : (s.modSettings f).unit c = s.unit c := rfl

@[simp] theorem State.reference_modSettings (s : State) (f : Settings → Settings) (c : Berth) : (s.modSettings f).reference c = s.reference c := rfl

@[simp] theorem State.sync_modSettings (s : State) (f : Settings → Settings) (c : Berth) : (s.modSettings f).sync c = s.sync c := rfl

@[simp] theorem State.ramp_modSettings (s : State) (f : Settings → Settings) (c : Berth) : (s.modSettings f).ramp c = s.ramp c := rfl

@[simp] theorem State.sec_modSettings (s : State) (f : Settings → Settings) (c : Berth) : (s.modSettings f).sec c = s.sec c := rfl

@[simp] theorem State.meter_modSettings (s : State) (f : Settings → Settings) (c : Berth) : (s.modSettings f).meter c = s.meter c := rfl

@[simp] theorem State.berth_modLink (s : State) (l : Link) (f : LinkState → LinkState) (c : Berth) : (s.modLink l f).berth c = s.berth c := rfl

@[simp] theorem State.unit_modLink (s : State) (l : Link) (f : LinkState → LinkState) (c : Berth) : (s.modLink l f).unit c = s.unit c := rfl

@[simp] theorem State.reference_modLink (s : State) (l : Link) (f : LinkState → LinkState) (c : Berth) : (s.modLink l f).reference c = s.reference c := rfl

@[simp] theorem State.sync_modLink (s : State) (l : Link) (f : LinkState → LinkState) (c : Berth) : (s.modLink l f).sync c = s.sync c := rfl

@[simp] theorem State.ramp_modLink (s : State) (l : Link) (f : LinkState → LinkState) (c : Berth) : (s.modLink l f).ramp c = s.ramp c := rfl

@[simp] theorem State.sec_modLink (s : State) (l : Link) (f : LinkState → LinkState) (c : Berth) : (s.modLink l f).sec c = s.sec c := rfl

@[simp] theorem State.meter_modLink (s : State) (l : Link) (f : LinkState → LinkState) (c : Berth) : (s.modLink l f).meter c = s.meter c := rfl

@[simp] theorem State.berth_setReservation (s : State) (b : Berth) (v : Nat) (c : Berth) : (s.setReservation b v).berth c = s.berth c := rfl

@[simp] theorem State.unit_setReservation (s : State) (b : Berth) (v : Nat) (c : Berth) : (s.setReservation b v).unit c = s.unit c := rfl

@[simp] theorem State.reference_setReservation (s : State) (b : Berth) (v : Nat) (c : Berth) : (s.setReservation b v).reference c = s.reference c := rfl

@[simp] theorem State.sync_setReservation (s : State) (b : Berth) (v : Nat) (c : Berth) : (s.setReservation b v).sync c = s.sync c := rfl

@[simp] theorem State.ramp_setReservation (s : State) (b : Berth) (v : Nat) (c : Berth) : (s.setReservation b v).ramp c = s.ramp c := rfl

@[simp] theorem State.sec_setReservation (s : State) (b : Berth) (v : Nat) (c : Berth) : (s.setReservation b v).sec c = s.sec c := rfl

@[simp] theorem State.meter_setReservation (s : State) (b : Berth) (v : Nat) (c : Berth) : (s.setReservation b v).meter c = s.meter c := rfl

@[simp] theorem State.berth_setWaiting (s : State) (l : List WaitEntry) (c : Berth) : (s.setWaiting l).berth c = s.berth c := rfl

@[simp] theorem State.unit_setWaiting (s : State) (l : List WaitEntry) (c : Berth) : (s.setWaiting l).unit c = s.unit c := rfl

@[simp] theorem State.reference_setWaiting (s : State) (l : List WaitEntry) (c : Berth) : (s.setWaiting l).reference c = s.reference c := rfl

@[simp] theorem State.sync_setWaiting (s : State) (l : List WaitEntry) (c : Berth) : (s.setWaiting l).sync c = s.sync c := rfl

@[simp] theorem State.ramp_setWaiting (s : State) (l : List WaitEntry) (c : Berth) : (s.setWaiting l).ramp c = s.ramp c := rfl

@[simp] theorem State.sec_setWaiting (s : State) (l : List WaitEntry) (c : Berth) : (s.setWaiting l).sec c = s.sec c := rfl

@[simp] theorem State.meter_setWaiting (s : State) (l : List WaitEntry) (c : Berth) : (s.setWaiting l).meter c = s.meter c := rfl

/-- An update of a berth's record that keeps this field of it keeps it for every berth. -/
@[simp] theorem State.berth_modBerth_inService (s : State) (b c : Berth) (f : BerthRecord → BerthRecord) (h : ∀ r, (f r).inService = r.inService) :
    ((s.modBerth b f).berth c).inService = (s.berth c).inService := by
  rw [State.berth_modBerth]; split <;> simp [h]

/-- An update of a berth's record that keeps this field of it keeps it for every berth. -/
@[simp] theorem State.berth_modBerth_stage (s : State) (b c : Berth) (f : BerthRecord → BerthRecord) (h : ∀ r, (f r).stage = r.stage) :
    ((s.modBerth b f).berth c).stage = (s.berth c).stage := by
  rw [State.berth_modBerth]; split <;> simp [h]

/-- An update of a berth's record that keeps this field of it keeps it for every berth. -/
@[simp] theorem State.berth_modBerth_holder (s : State) (b c : Berth) (f : BerthRecord → BerthRecord) (h : ∀ r, (f r).holder = r.holder) :
    ((s.modBerth b f).berth c).holder = (s.berth c).holder := by
  rw [State.berth_modBerth]; split <;> simp [h]

/-- An update of a berth's record that keeps this field of it keeps it for every berth. -/
@[simp] theorem State.berth_modBerth_pendingSince (s : State) (b c : Berth) (f : BerthRecord → BerthRecord) (h : ∀ r, (f r).pendingSince = r.pendingSince) :
    ((s.modBerth b f).berth c).pendingSince = (s.berth c).pendingSince := by
  rw [State.berth_modBerth]; split <;> simp [h]

/-- An update of a berth's record that keeps this field of it keeps it for every berth. -/
@[simp] theorem State.berth_modBerth_agreement (s : State) (b c : Berth) (f : BerthRecord → BerthRecord) (h : ∀ r, (f r).agreement = r.agreement) :
    ((s.modBerth b f).berth c).agreement = (s.berth c).agreement := by
  rw [State.berth_modBerth]; split <;> simp [h]

/-- An update of a berth's record that keeps this field of it keeps it for every berth. -/
@[simp] theorem State.berth_modBerth_causes (s : State) (b c : Berth) (f : BerthRecord → BerthRecord) (h : ∀ r, (f r).causes = r.causes) :
    ((s.modBerth b f).berth c).causes = (s.berth c).causes := by
  rw [State.berth_modBerth]; split <;> simp [h]

/-- An update of a berth's record that keeps this field of it keeps it for every berth. -/
@[simp] theorem State.berth_modBerth_status (s : State) (b c : Berth) (f : BerthRecord → BerthRecord) (h : ∀ r, (f r).status = r.status) :
    ((s.modBerth b f).berth c).status = (s.berth c).status := by
  rw [State.berth_modBerth]; split <;> simp [h]

/-- An update of a berth's record that keeps this field of it keeps it for every berth. -/
@[simp] theorem State.berth_modBerth_moduleCount (s : State) (b c : Berth) (f : BerthRecord → BerthRecord) (h : ∀ r, (f r).moduleCount = r.moduleCount) :
    ((s.modBerth b f).berth c).moduleCount = (s.berth c).moduleCount := by
  rw [State.berth_modBerth]; split <;> simp [h]

/-- An update of a berth's record that keeps this field of it keeps it for every berth. -/
@[simp] theorem State.berth_modBerth_summaryReserved (s : State) (b c : Berth) (f : BerthRecord → BerthRecord) (h : ∀ r, (f r).summaryReserved = r.summaryReserved) :
    ((s.modBerth b f).berth c).summaryReserved = (s.berth c).summaryReserved := by
  rw [State.berth_modBerth]; split <;> simp [h]

/-- An update of a berth's record that keeps this field of it keeps it for every berth. -/
@[simp] theorem State.berth_modBerth_linkLost (s : State) (b c : Berth) (f : BerthRecord → BerthRecord) (h : ∀ r, (f r).linkLost = r.linkLost) :
    ((s.modBerth b f).berth c).linkLost = (s.berth c).linkLost := by
  rw [State.berth_modBerth]; split <;> simp [h]

/-- An update of a berth's record that keeps this field of it keeps it for every berth. -/
@[simp] theorem State.berth_modBerth_syncHold (s : State) (b c : Berth) (f : BerthRecord → BerthRecord) (h : ∀ r, (f r).syncHold = r.syncHold) :
    ((s.modBerth b f).berth c).syncHold = (s.berth c).syncHold := by
  rw [State.berth_modBerth]; split <;> simp [h]

/-- An update of a berth's record that keeps this field of it keeps it for every berth. -/
@[simp] theorem State.berth_modBerth_separationCause (s : State) (b c : Berth) (f : BerthRecord → BerthRecord) (h : ∀ r, (f r).separationCause = r.separationCause) :
    ((s.modBerth b f).berth c).separationCause = (s.berth c).separationCause := by
  rw [State.berth_modBerth]; split <;> simp [h]

/-- An update of a berth's record that keeps this field of it keeps it for every berth. -/
@[simp] theorem State.berth_modBerth_stageTimer (s : State) (b c : Berth) (f : BerthRecord → BerthRecord) (h : ∀ r, (f r).stageTimer = r.stageTimer) :
    ((s.modBerth b f).berth c).stageTimer = (s.berth c).stageTimer := by
  rw [State.berth_modBerth]; split <;> simp [h]

/-- An update of a berth's record that keeps this field of it keeps it for every berth. -/
@[simp] theorem State.berth_modBerth_qualification (s : State) (b c : Berth) (f : BerthRecord → BerthRecord) (h : ∀ r, (f r).qualification = r.qualification) :
    ((s.modBerth b f).berth c).qualification = (s.berth c).qualification := by
  rw [State.berth_modBerth]; split <;> simp [h]

/-- An update of a berth's section that keeps this field of it keeps it for every berth. -/
@[simp] theorem State.sec_modSec_emergencyStop (s : State) (b c : Berth) (f : Section → Section) (h : ∀ r, (f r).emergencyStop = r.emergencyStop) :
    ((s.modSec b f).sec c).emergencyStop = (s.sec c).emergencyStop := by
  rw [State.sec_modSec]; split <;> simp [h]

/-- An update of a berth's section that keeps this field of it keeps it for every berth. -/
@[simp] theorem State.sec_modSec_plugPilot (s : State) (b c : Berth) (f : Section → Section) (h : ∀ r, (f r).plugPilot = r.plugPilot) :
    ((s.modSec b f).sec c).plugPilot = (s.sec c).plugPilot := by
  rw [State.sec_modSec]; split <;> simp [h]

/-- An update of a berth's section that keeps this field of it keeps it for every berth. -/
@[simp] theorem State.sec_modSec_outletAux (s : State) (b c : Berth) (f : Section → Section) (h : ∀ r, (f r).outletAux = r.outletAux) :
    ((s.modSec b f).sec c).outletAux = (s.sec c).outletAux := by
  rw [State.sec_modSec]; split <;> simp [h]

/-- An update of a berth's section that keeps this field of it keeps it for every berth. -/
@[simp] theorem State.sec_modSec_couplerAux (s : State) (b c : Berth) (f : Section → Section) (h : ∀ r, (f r).couplerAux = r.couplerAux) :
    ((s.modSec b f).sec c).couplerAux = (s.sec c).couplerAux := by
  rw [State.sec_modSec]; split <;> simp [h]

/-- An update of a berth's section that keeps this field of it keeps it for every berth. -/
@[simp] theorem State.sec_modSec_earthResult (s : State) (b c : Berth) (f : Section → Section) (h : ∀ r, (f r).earthResult = r.earthResult) :
    ((s.modSec b f).sec c).earthResult = (s.sec c).earthResult := by
  rw [State.sec_modSec]; split <;> simp [h]

/-- An update of a berth's section that keeps this field of it keeps it for every berth. -/
@[simp] theorem State.sec_modSec_deferrals (s : State) (b c : Berth) (f : Section → Section) (h : ∀ r, (f r).deferrals = r.deferrals) :
    ((s.modSec b f).sec c).deferrals = (s.sec c).deferrals := by
  rw [State.sec_modSec]; split <;> simp [h]

/-- An update of a berth's section that keeps this field of it keeps it for every berth. -/
@[simp] theorem State.sec_modSec_schedule (s : State) (b c : Berth) (f : Section → Section) (h : ∀ r, (f r).schedule = r.schedule) :
    ((s.modSec b f).sec c).schedule = (s.sec c).schedule := by
  rw [State.sec_modSec]; split <;> simp [h]

/-- An update of a berth's section that keeps this field of it keeps it for every berth. -/
@[simp] theorem State.sec_modSec_outletCommand (s : State) (b c : Berth) (f : Section → Section) (h : ∀ r, (f r).outletCommand = r.outletCommand) :
    ((s.modSec b f).sec c).outletCommand = (s.sec c).outletCommand := by
  rw [State.sec_modSec]; split <;> simp [h]

/-- Reading a choice of two states is a choice of two readings; not a simp lemma, since case splits usually serve better. -/
theorem ite_views (p : Prop) [Decidable p] (s t : State) :
    (if p then s else t).now = (if p then s.now else t.now) ∧
    (if p then s else t).resetHeld = (if p then s.resetHeld else t.resetHeld) ∧
    (if p then s else t).links = (if p then s.links else t.links) ∧
    (if p then s else t).berths = (if p then s.berths else t.berths) ∧
    (if p then s else t).units = (if p then s.units else t.units) ∧
    (if p then s else t).pool = (if p then s.pool else t.pool) ∧
    (if p then s else t).references = (if p then s.references else t.references) ∧
    (if p then s else t).capture = (if p then s.capture else t.capture) ∧
    (if p then s else t).port = (if p then s.port else t.port) ∧
    (if p then s else t).syncs = (if p then s.syncs else t.syncs) ∧
    (if p then s else t).ramps = (if p then s.ramps else t.ramps) ∧
    (if p then s else t).budget = (if p then s.budget else t.budget) ∧
    (if p then s else t).sections = (if p then s.sections else t.sections) ∧
    (if p then s else t).meters = (if p then s.meters else t.meters) ∧
    (if p then s else t).tariff = (if p then s.tariff else t.tariff) ∧
    (if p then s else t).records = (if p then s.records else t.records) ∧
    (if p then s else t).settings = (if p then s.settings else t.settings) ∧
    (if p then s else t).sent = (if p then s.sent else t.sent) ∧
    (if p then s else t).freeCount = (if p then s.freeCount else t.freeCount) ∧
    (if p then s else t).pending = (if p then s.pending else t.pending) ∧
    (∀ c, (if p then s else t).berth c = (if p then s.berth c else t.berth c)) ∧
    (∀ c, (if p then s else t).unit c = (if p then s.unit c else t.unit c)) ∧
    (∀ c, (if p then s else t).reference c = (if p then s.reference c else t.reference c)) ∧
    (∀ c, (if p then s else t).sync c = (if p then s.sync c else t.sync c)) ∧
    (∀ c, (if p then s else t).ramp c = (if p then s.ramp c else t.ramp c)) ∧
    (∀ c, (if p then s else t).sec c = (if p then s.sec c else t.sec c)) ∧
    (∀ c, (if p then s else t).meter c = (if p then s.meter c else t.meter c)) := by
  split <;> simp

/-- The same for a berth's record. -/
theorem ite_record (p : Prop) [Decidable p] (r q : BerthRecord) :
    (if p then r else q).inService = (if p then r.inService else q.inService) ∧
    (if p then r else q).stage = (if p then r.stage else q.stage) ∧
    (if p then r else q).holder = (if p then r.holder else q.holder) ∧
    (if p then r else q).pendingSince = (if p then r.pendingSince else q.pendingSince) ∧
    (if p then r else q).agreement = (if p then r.agreement else q.agreement) ∧
    (if p then r else q).causes = (if p then r.causes else q.causes) ∧
    (if p then r else q).status = (if p then r.status else q.status) ∧
    (if p then r else q).moduleCount = (if p then r.moduleCount else q.moduleCount) ∧
    (if p then r else q).summaryReserved = (if p then r.summaryReserved else q.summaryReserved) ∧
    (if p then r else q).linkLost = (if p then r.linkLost else q.linkLost) ∧
    (if p then r else q).syncHold = (if p then r.syncHold else q.syncHold) ∧
    (if p then r else q).separationCause = (if p then r.separationCause else q.separationCause) ∧
    (if p then r else q).stageTimer = (if p then r.stageTimer else q.stageTimer) ∧
    (if p then r else q).qualification = (if p then r.qualification else q.qualification) := by
  split <;> simp

/-- The same for a section. -/
theorem ite_section (p : Prop) [Decidable p] (r q : Section) :
    (if p then r else q).emergencyStop = (if p then r.emergencyStop else q.emergencyStop) ∧
    (if p then r else q).plugPilot = (if p then r.plugPilot else q.plugPilot) ∧
    (if p then r else q).outletAux = (if p then r.outletAux else q.outletAux) ∧
    (if p then r else q).couplerAux = (if p then r.couplerAux else q.couplerAux) ∧
    (if p then r else q).earthResult = (if p then r.earthResult else q.earthResult) ∧
    (if p then r else q).deferrals = (if p then r.deferrals else q.deferrals) ∧
    (if p then r else q).schedule = (if p then r.schedule else q.schedule) ∧
    (if p then r else q).outletCommand = (if p then r.outletCommand else q.outletCommand) := by
  split <;> simp

/-- The same for the links. -/
theorem ite_links (p : Prop) [Decidable p] (x y : Links) (k : Link) :
    ((if p then x else y).get k).up = (if p then (x.get k).up else (y.get k).up) := by
  split <;> simp

/-- An update of a link that keeps whether it is UP keeps it for every link. -/
@[simp] theorem State.modLink_up (s : State) (l k : Link) (f : LinkState → LinkState) (h : ∀ r, (f r).up = r.up) :
    ((s.modLink l f).links.get k).up = (s.links.get k).up := by
  unfold State.modLink
  rw [Links.get_set]
  split
  · rename_i e; subst e; exact h _
  · rfl

end Sys2Proof.Machine
end

