-- ==== Sys2Proof/Laws/Records.lean ====
section
/-! SUPPORT. What the notices and the Record Pool's operations leave alone: one lemma per operation. -/

namespace Sys2Proof.Machine

/-- What `emit` leaves alone. -/
@[simp] theorem emit_frame (x : Sent) (s : State) :
    (emit x s).now = s.now ∧ (emit x s).resetHeld = s.resetHeld ∧ (emit x s).links = s.links ∧
    (emit x s).berths = s.berths ∧ (emit x s).units = s.units ∧ (emit x s).pool = s.pool ∧
    (emit x s).references = s.references ∧ (emit x s).capture = s.capture ∧ (emit x s).port = s.port ∧
    (emit x s).syncs = s.syncs ∧ (emit x s).ramps = s.ramps ∧ (emit x s).budget = s.budget ∧
    (emit x s).sections = s.sections ∧ (emit x s).meters = s.meters ∧ (emit x s).tariff = s.tariff ∧
    (emit x s).records = s.records ∧ (emit x s).settings = s.settings ∧ (emit x s).freeCount = s.freeCount ∧
    (emit x s).pending = s.pending ∧ (∀ c, (emit x s).berth c = s.berth c) ∧ (∀ c, (emit x s).sec c = s.sec c) ∧
    (∀ c, (emit x s).unit c = s.unit c) ∧ (∀ c, (emit x s).reference c = s.reference c) ∧
    (∀ c, (emit x s).sync c = s.sync c) ∧ (∀ c, (emit x s).ramp c = s.ramp c) ∧
    (∀ c, (emit x s).meter c = s.meter c) := by
  simp [emit, State.berth, State.sec, State.unit, State.reference, State.sync, State.ramp, State.meter]

/-- What `sendOn` leaves alone. -/
@[simp] theorem sendOn_frame (l : Link) (x : Sent) (s : State) :
    (sendOn l x s).now = s.now ∧ (sendOn l x s).resetHeld = s.resetHeld ∧ (sendOn l x s).links = s.links ∧
    (sendOn l x s).berths = s.berths ∧ (sendOn l x s).units = s.units ∧ (sendOn l x s).pool = s.pool ∧
    (sendOn l x s).references = s.references ∧ (sendOn l x s).capture = s.capture ∧
    (sendOn l x s).port = s.port ∧ (sendOn l x s).syncs = s.syncs ∧ (sendOn l x s).ramps = s.ramps ∧
    (sendOn l x s).budget = s.budget ∧ (sendOn l x s).sections = s.sections ∧ (sendOn l x s).meters = s.meters ∧
    (sendOn l x s).tariff = s.tariff ∧ (sendOn l x s).records = s.records ∧
    (sendOn l x s).settings = s.settings ∧ (sendOn l x s).freeCount = s.freeCount ∧
    (sendOn l x s).pending = s.pending ∧ (∀ c, (sendOn l x s).berth c = s.berth c) ∧
    (∀ c, (sendOn l x s).sec c = s.sec c) ∧ (∀ c, (sendOn l x s).unit c = s.unit c) ∧
    (∀ c, (sendOn l x s).reference c = s.reference c) ∧ (∀ c, (sendOn l x s).sync c = s.sync c) ∧
    (∀ c, (sendOn l x s).ramp c = s.ramp c) ∧ (∀ c, (sendOn l x s).meter c = s.meter c) := by
  unfold sendOn; (try dsimp only); (repeat' split) <;> simp

/-- What `sendNotice` leaves alone. -/
@[simp] theorem sendNotice_frame (l : Link) (s : State) :
    (sendNotice l s).now = s.now ∧ (sendNotice l s).resetHeld = s.resetHeld ∧
    (sendNotice l s).berths = s.berths ∧ (sendNotice l s).units = s.units ∧ (sendNotice l s).pool = s.pool ∧
    (sendNotice l s).references = s.references ∧ (sendNotice l s).capture = s.capture ∧
    (sendNotice l s).port = s.port ∧ (sendNotice l s).syncs = s.syncs ∧ (sendNotice l s).ramps = s.ramps ∧
    (sendNotice l s).budget = s.budget ∧ (sendNotice l s).sections = s.sections ∧
    (sendNotice l s).meters = s.meters ∧ (sendNotice l s).tariff = s.tariff ∧
    (sendNotice l s).records = s.records ∧ (sendNotice l s).settings = s.settings ∧
    (sendNotice l s).freeCount = s.freeCount ∧ (sendNotice l s).pending = s.pending ∧
    (∀ c, (sendNotice l s).berth c = s.berth c) ∧ (∀ c, (sendNotice l s).sec c = s.sec c) ∧
    (∀ c, (sendNotice l s).unit c = s.unit c) ∧ (∀ c, (sendNotice l s).reference c = s.reference c) ∧
    (∀ c, (sendNotice l s).sync c = s.sync c) ∧ (∀ c, (sendNotice l s).ramp c = s.ramp c) ∧
    (∀ c, (sendNotice l s).meter c = s.meter c) ∧ (∀ k, ((sendNotice l s).links.get k).up = (s.links.get k).up) := by
  unfold sendNotice; (try dsimp only); (repeat' split) <;> simp

/-- What `latch` leaves alone. -/
@[simp] theorem latch_frame (l : Link) (i : Nat) (s : State) :
    (latch l i s).now = s.now ∧ (latch l i s).resetHeld = s.resetHeld ∧ (latch l i s).berths = s.berths ∧
    (latch l i s).units = s.units ∧ (latch l i s).pool = s.pool ∧ (latch l i s).references = s.references ∧
    (latch l i s).capture = s.capture ∧ (latch l i s).port = s.port ∧ (latch l i s).syncs = s.syncs ∧
    (latch l i s).ramps = s.ramps ∧ (latch l i s).budget = s.budget ∧ (latch l i s).sections = s.sections ∧
    (latch l i s).meters = s.meters ∧ (latch l i s).tariff = s.tariff ∧ (latch l i s).records = s.records ∧
    (latch l i s).settings = s.settings ∧ (latch l i s).freeCount = s.freeCount ∧
    (latch l i s).pending = s.pending ∧ (∀ c, (latch l i s).berth c = s.berth c) ∧
    (∀ c, (latch l i s).sec c = s.sec c) ∧ (∀ c, (latch l i s).unit c = s.unit c) ∧
    (∀ c, (latch l i s).reference c = s.reference c) ∧ (∀ c, (latch l i s).sync c = s.sync c) ∧
    (∀ c, (latch l i s).ramp c = s.ramp c) ∧ (∀ c, (latch l i s).meter c = s.meter c) ∧
    (∀ k, ((latch l i s).links.get k).up = (s.links.get k).up) := by
  unfold latch; (try dsimp only); (repeat' split) <;> simp

/-- What `latchShore` leaves alone. -/
@[simp] theorem latchShore_frame (f : ShoreFlag) (s : State) :
    (latchShore f s).now = s.now ∧ (latchShore f s).resetHeld = s.resetHeld ∧
    (latchShore f s).berths = s.berths ∧ (latchShore f s).units = s.units ∧ (latchShore f s).pool = s.pool ∧
    (latchShore f s).references = s.references ∧ (latchShore f s).capture = s.capture ∧
    (latchShore f s).port = s.port ∧ (latchShore f s).syncs = s.syncs ∧ (latchShore f s).ramps = s.ramps ∧
    (latchShore f s).budget = s.budget ∧ (latchShore f s).sections = s.sections ∧
    (latchShore f s).meters = s.meters ∧ (latchShore f s).tariff = s.tariff ∧
    (latchShore f s).records = s.records ∧ (latchShore f s).settings = s.settings ∧
    (latchShore f s).freeCount = s.freeCount ∧ (latchShore f s).pending = s.pending ∧
    (∀ c, (latchShore f s).berth c = s.berth c) ∧ (∀ c, (latchShore f s).sec c = s.sec c) ∧
    (∀ c, (latchShore f s).unit c = s.unit c) ∧ (∀ c, (latchShore f s).reference c = s.reference c) ∧
    (∀ c, (latchShore f s).sync c = s.sync c) ∧ (∀ c, (latchShore f s).ramp c = s.ramp c) ∧
    (∀ c, (latchShore f s).meter c = s.meter c) ∧ (∀ k, ((latchShore f s).links.get k).up = (s.links.get k).up) := by
  simp [latchShore]

/-- What `latchTariff` leaves alone. -/
@[simp] theorem latchTariff_frame (f : TariffFlag) (s : State) :
    (latchTariff f s).now = s.now ∧ (latchTariff f s).resetHeld = s.resetHeld ∧
    (latchTariff f s).berths = s.berths ∧ (latchTariff f s).units = s.units ∧ (latchTariff f s).pool = s.pool ∧
    (latchTariff f s).references = s.references ∧ (latchTariff f s).capture = s.capture ∧
    (latchTariff f s).port = s.port ∧ (latchTariff f s).syncs = s.syncs ∧ (latchTariff f s).ramps = s.ramps ∧
    (latchTariff f s).budget = s.budget ∧ (latchTariff f s).sections = s.sections ∧
    (latchTariff f s).meters = s.meters ∧ (latchTariff f s).tariff = s.tariff ∧
    (latchTariff f s).records = s.records ∧ (latchTariff f s).settings = s.settings ∧
    (latchTariff f s).freeCount = s.freeCount ∧ (latchTariff f s).pending = s.pending ∧
    (∀ c, (latchTariff f s).berth c = s.berth c) ∧ (∀ c, (latchTariff f s).sec c = s.sec c) ∧
    (∀ c, (latchTariff f s).unit c = s.unit c) ∧ (∀ c, (latchTariff f s).reference c = s.reference c) ∧
    (∀ c, (latchTariff f s).sync c = s.sync c) ∧ (∀ c, (latchTariff f s).ramp c = s.ramp c) ∧
    (∀ c, (latchTariff f s).meter c = s.meter c) ∧
    (∀ k, ((latchTariff f s).links.get k).up = (s.links.get k).up) := by
  simp [latchTariff]

/-- What `latchShip` leaves alone. -/
@[simp] theorem latchShip_frame (b : Berth) (f : ShipFlag) (s : State) :
    (latchShip b f s).now = s.now ∧ (latchShip b f s).resetHeld = s.resetHeld ∧
    (latchShip b f s).berths = s.berths ∧ (latchShip b f s).units = s.units ∧ (latchShip b f s).pool = s.pool ∧
    (latchShip b f s).references = s.references ∧ (latchShip b f s).capture = s.capture ∧
    (latchShip b f s).port = s.port ∧ (latchShip b f s).syncs = s.syncs ∧ (latchShip b f s).ramps = s.ramps ∧
    (latchShip b f s).budget = s.budget ∧ (latchShip b f s).sections = s.sections ∧
    (latchShip b f s).meters = s.meters ∧ (latchShip b f s).tariff = s.tariff ∧
    (latchShip b f s).records = s.records ∧ (latchShip b f s).settings = s.settings ∧
    (latchShip b f s).freeCount = s.freeCount ∧ (latchShip b f s).pending = s.pending ∧
    (∀ c, (latchShip b f s).berth c = s.berth c) ∧ (∀ c, (latchShip b f s).sec c = s.sec c) ∧
    (∀ c, (latchShip b f s).unit c = s.unit c) ∧ (∀ c, (latchShip b f s).reference c = s.reference c) ∧
    (∀ c, (latchShip b f s).sync c = s.sync c) ∧ (∀ c, (latchShip b f s).ramp c = s.ramp c) ∧
    (∀ c, (latchShip b f s).meter c = s.meter c) ∧
    (∀ k, ((latchShip b f s).links.get k).up = (s.links.get k).up) := by
  simp [latchShip]

/-- What `noticeIfEnabled` leaves alone. -/
@[simp] theorem noticeIfEnabled_frame (l : Link) (s : State) :
    (noticeIfEnabled l s).now = s.now ∧ (noticeIfEnabled l s).resetHeld = s.resetHeld ∧
    (noticeIfEnabled l s).berths = s.berths ∧ (noticeIfEnabled l s).units = s.units ∧
    (noticeIfEnabled l s).pool = s.pool ∧ (noticeIfEnabled l s).references = s.references ∧
    (noticeIfEnabled l s).capture = s.capture ∧ (noticeIfEnabled l s).port = s.port ∧
    (noticeIfEnabled l s).syncs = s.syncs ∧ (noticeIfEnabled l s).ramps = s.ramps ∧
    (noticeIfEnabled l s).budget = s.budget ∧ (noticeIfEnabled l s).sections = s.sections ∧
    (noticeIfEnabled l s).meters = s.meters ∧ (noticeIfEnabled l s).tariff = s.tariff ∧
    (noticeIfEnabled l s).records = s.records ∧ (noticeIfEnabled l s).settings = s.settings ∧
    (noticeIfEnabled l s).freeCount = s.freeCount ∧ (noticeIfEnabled l s).pending = s.pending ∧
    (∀ c, (noticeIfEnabled l s).berth c = s.berth c) ∧ (∀ c, (noticeIfEnabled l s).sec c = s.sec c) ∧
    (∀ c, (noticeIfEnabled l s).unit c = s.unit c) ∧ (∀ c, (noticeIfEnabled l s).reference c = s.reference c) ∧
    (∀ c, (noticeIfEnabled l s).sync c = s.sync c) ∧ (∀ c, (noticeIfEnabled l s).ramp c = s.ramp c) ∧
    (∀ c, (noticeIfEnabled l s).meter c = s.meter c) ∧
    (∀ k, ((noticeIfEnabled l s).links.get k).up = (s.links.get k).up) := by
  unfold noticeIfEnabled; (try dsimp only); (repeat' split) <;> simp

/-- What `setSlot` leaves alone. -/
@[simp] theorem setSlot_frame (i : SlotId) (x : Slot) (s : State) :
    (setSlot i x s).now = s.now ∧ (setSlot i x s).resetHeld = s.resetHeld ∧ (setSlot i x s).links = s.links ∧
    (setSlot i x s).berths = s.berths ∧ (setSlot i x s).units = s.units ∧ (setSlot i x s).pool = s.pool ∧
    (setSlot i x s).references = s.references ∧ (setSlot i x s).capture = s.capture ∧
    (setSlot i x s).port = s.port ∧ (setSlot i x s).syncs = s.syncs ∧ (setSlot i x s).ramps = s.ramps ∧
    (setSlot i x s).budget = s.budget ∧ (setSlot i x s).sections = s.sections ∧
    (setSlot i x s).meters = s.meters ∧ (setSlot i x s).tariff = s.tariff ∧
    (setSlot i x s).settings = s.settings ∧ (setSlot i x s).sent = s.sent ∧
    (setSlot i x s).freeCount = s.freeCount ∧ (setSlot i x s).pending = s.pending ∧
    (∀ c, (setSlot i x s).berth c = s.berth c) ∧ (∀ c, (setSlot i x s).sec c = s.sec c) ∧
    (∀ c, (setSlot i x s).unit c = s.unit c) ∧ (∀ c, (setSlot i x s).reference c = s.reference c) ∧
    (∀ c, (setSlot i x s).sync c = s.sync c) ∧ (∀ c, (setSlot i x s).ramp c = s.ramp c) ∧
    (∀ c, (setSlot i x s).meter c = s.meter c) := by
  simp [setSlot]

/-- What `testPoolLow` leaves alone. -/
@[simp] theorem testPoolLow_frame (s : State) :
    (testPoolLow s).now = s.now ∧ (testPoolLow s).resetHeld = s.resetHeld ∧ (testPoolLow s).berths = s.berths ∧
    (testPoolLow s).units = s.units ∧ (testPoolLow s).pool = s.pool ∧
    (testPoolLow s).references = s.references ∧ (testPoolLow s).capture = s.capture ∧
    (testPoolLow s).port = s.port ∧ (testPoolLow s).syncs = s.syncs ∧ (testPoolLow s).ramps = s.ramps ∧
    (testPoolLow s).budget = s.budget ∧ (testPoolLow s).sections = s.sections ∧
    (testPoolLow s).meters = s.meters ∧ (testPoolLow s).tariff = s.tariff ∧
    (testPoolLow s).settings = s.settings ∧ (testPoolLow s).freeCount = s.freeCount ∧
    (testPoolLow s).pending = s.pending ∧ (∀ c, (testPoolLow s).berth c = s.berth c) ∧
    (∀ c, (testPoolLow s).sec c = s.sec c) ∧ (∀ c, (testPoolLow s).unit c = s.unit c) ∧
    (∀ c, (testPoolLow s).reference c = s.reference c) ∧ (∀ c, (testPoolLow s).sync c = s.sync c) ∧
    (∀ c, (testPoolLow s).ramp c = s.ramp c) ∧ (∀ c, (testPoolLow s).meter c = s.meter c) ∧
    (∀ k, ((testPoolLow s).links.get k).up = (s.links.get k).up) := by
  unfold testPoolLow; (try dsimp only); (repeat' split) <;> simp

/-- What `lowerSlot` leaves alone. -/
@[simp] theorem lowerSlot_frame (i : SlotId) (s : State) :
    (lowerSlot i s).1.now = s.now ∧ (lowerSlot i s).1.resetHeld = s.resetHeld ∧
    (lowerSlot i s).1.links = s.links ∧ (lowerSlot i s).1.berths = s.berths ∧
    (lowerSlot i s).1.units = s.units ∧ (lowerSlot i s).1.pool = s.pool ∧
    (lowerSlot i s).1.references = s.references ∧ (lowerSlot i s).1.capture = s.capture ∧
    (lowerSlot i s).1.port = s.port ∧ (lowerSlot i s).1.syncs = s.syncs ∧ (lowerSlot i s).1.ramps = s.ramps ∧
    (lowerSlot i s).1.budget = s.budget ∧ (lowerSlot i s).1.sections = s.sections ∧
    (lowerSlot i s).1.meters = s.meters ∧ (lowerSlot i s).1.tariff = s.tariff ∧
    (lowerSlot i s).1.settings = s.settings ∧ (lowerSlot i s).1.sent = s.sent ∧
    (lowerSlot i s).1.freeCount = s.freeCount ∧ (lowerSlot i s).1.pending = s.pending ∧
    (∀ c, (lowerSlot i s).1.berth c = s.berth c) ∧ (∀ c, (lowerSlot i s).1.sec c = s.sec c) ∧
    (∀ c, (lowerSlot i s).1.unit c = s.unit c) ∧ (∀ c, (lowerSlot i s).1.reference c = s.reference c) ∧
    (∀ c, (lowerSlot i s).1.sync c = s.sync c) ∧ (∀ c, (lowerSlot i s).1.ramp c = s.ramp c) ∧
    (∀ c, (lowerSlot i s).1.meter c = s.meter c) := by
  unfold lowerSlot; (try dsimp only); (repeat' split) <;> simp

/-- A fold whose step keeps something of the state keeps it. -/
theorem foldl_keeps {α β : Type} (view : State → β) (f : State → α → State) (h : ∀ s a, view (f s a) = view s)
    (l : List α) (s : State) : view (l.foldl f s) = view s := by
  induction l generalizing s with
  | nil => rfl
  | cons a l ih => rw [List.foldl_cons, ih, h]

/-- A fold over a state and a list of work, whose step keeps something of the state, keeps it. -/
theorem foldl_pair_keeps {α β γ : Type} (view : State → β) (f : State × γ → α → State × γ)
    (h : ∀ p a, view (f p a).1 = view p.1) (l : List α) (p : State × γ) : view (l.foldl f p).1 = view p.1 := by
  induction l generalizing p with
  | nil => rfl
  | cons a l ih => rw [List.foldl_cons, ih, h]

/-- What `lowerCount` leaves alone. -/
@[simp] theorem lowerCount_frame (r : RecordRef) (s : State) :
    (lowerCount r s).1.now = s.now ∧ (lowerCount r s).1.resetHeld = s.resetHeld ∧
    (lowerCount r s).1.links = s.links ∧ (lowerCount r s).1.berths = s.berths ∧
    (lowerCount r s).1.units = s.units ∧ (lowerCount r s).1.pool = s.pool ∧
    (lowerCount r s).1.references = s.references ∧ (lowerCount r s).1.capture = s.capture ∧
    (lowerCount r s).1.port = s.port ∧ (lowerCount r s).1.syncs = s.syncs ∧ (lowerCount r s).1.ramps = s.ramps ∧
    (lowerCount r s).1.budget = s.budget ∧ (lowerCount r s).1.sections = s.sections ∧
    (lowerCount r s).1.meters = s.meters ∧ (lowerCount r s).1.tariff = s.tariff ∧
    (lowerCount r s).1.settings = s.settings ∧ (lowerCount r s).1.sent = s.sent ∧
    (lowerCount r s).1.freeCount = s.freeCount ∧ (lowerCount r s).1.pending = s.pending ∧
    (∀ c, (lowerCount r s).1.berth c = s.berth c) ∧ (∀ c, (lowerCount r s).1.sec c = s.sec c) ∧
    (∀ c, (lowerCount r s).1.unit c = s.unit c) ∧ (∀ c, (lowerCount r s).1.reference c = s.reference c) ∧
    (∀ c, (lowerCount r s).1.sync c = s.sync c) ∧ (∀ c, (lowerCount r s).1.ramp c = s.ramp c) ∧
    (∀ c, (lowerCount r s).1.meter c = s.meter c) := by
  unfold lowerCount
  exact ⟨foldl_pair_keeps State.now _ (by intros; simp) _ _,
    foldl_pair_keeps State.resetHeld _ (by intros; simp) _ _,
    foldl_pair_keeps State.links _ (by intros; simp) _ _,
    foldl_pair_keeps State.berths _ (by intros; simp) _ _,
    foldl_pair_keeps State.units _ (by intros; simp) _ _,
    foldl_pair_keeps State.pool _ (by intros; simp) _ _,
    foldl_pair_keeps State.references _ (by intros; simp) _ _,
    foldl_pair_keeps State.capture _ (by intros; simp) _ _,
    foldl_pair_keeps State.port _ (by intros; simp) _ _,
    foldl_pair_keeps State.syncs _ (by intros; simp) _ _,
    foldl_pair_keeps State.ramps _ (by intros; simp) _ _,
    foldl_pair_keeps State.budget _ (by intros; simp) _ _,
    foldl_pair_keeps State.sections _ (by intros; simp) _ _,
    foldl_pair_keeps State.meters _ (by intros; simp) _ _,
    foldl_pair_keeps State.tariff _ (by intros; simp) _ _,
    foldl_pair_keeps State.settings _ (by intros; simp) _ _,
    foldl_pair_keeps State.sent _ (by intros; simp) _ _,
    foldl_pair_keeps State.freeCount _ (by intros; simp) _ _,
    foldl_pair_keeps State.pending _ (by intros; simp) _ _,
    fun c => foldl_pair_keeps (fun s => s.berth c) _ (by intros; simp) _ _,
    fun c => foldl_pair_keeps (fun s => s.sec c) _ (by intros; simp) _ _,
    fun c => foldl_pair_keeps (fun s => s.unit c) _ (by intros; simp) _ _,
    fun c => foldl_pair_keeps (fun s => s.reference c) _ (by intros; simp) _ _,
    fun c => foldl_pair_keeps (fun s => s.sync c) _ (by intros; simp) _ _,
    fun c => foldl_pair_keeps (fun s => s.ramp c) _ (by intros; simp) _ _,
    fun c => foldl_pair_keeps (fun s => s.meter c) _ (by intros; simp) _ _⟩

/-- What `joinTariffQueue` leaves alone. -/
@[simp] theorem joinTariffQueue_frame (r : RecordRef) (s : State) :
    (joinTariffQueue r s).now = s.now ∧ (joinTariffQueue r s).resetHeld = s.resetHeld ∧
    (joinTariffQueue r s).berths = s.berths ∧ (joinTariffQueue r s).units = s.units ∧
    (joinTariffQueue r s).pool = s.pool ∧ (joinTariffQueue r s).references = s.references ∧
    (joinTariffQueue r s).capture = s.capture ∧ (joinTariffQueue r s).port = s.port ∧
    (joinTariffQueue r s).syncs = s.syncs ∧ (joinTariffQueue r s).ramps = s.ramps ∧
    (joinTariffQueue r s).budget = s.budget ∧ (joinTariffQueue r s).sections = s.sections ∧
    (joinTariffQueue r s).meters = s.meters ∧ (joinTariffQueue r s).tariff = s.tariff ∧
    (joinTariffQueue r s).settings = s.settings ∧ (joinTariffQueue r s).freeCount = s.freeCount ∧
    (joinTariffQueue r s).pending = s.pending ∧ (∀ c, (joinTariffQueue r s).berth c = s.berth c) ∧
    (∀ c, (joinTariffQueue r s).sec c = s.sec c) ∧ (∀ c, (joinTariffQueue r s).unit c = s.unit c) ∧
    (∀ c, (joinTariffQueue r s).reference c = s.reference c) ∧ (∀ c, (joinTariffQueue r s).sync c = s.sync c) ∧
    (∀ c, (joinTariffQueue r s).ramp c = s.ramp c) ∧ (∀ c, (joinTariffQueue r s).meter c = s.meter c) ∧
    (∀ k, ((joinTariffQueue r s).links.get k).up = (s.links.get k).up) := by
  unfold joinTariffQueue; (try dsimp only); (repeat' split) <;> simp

/-- What `dropOldest` leaves alone. -/
@[simp] theorem dropOldest_frame (b : Berth) (s : State) :
    (dropOldest b s).1.now = s.now ∧ (dropOldest b s).1.resetHeld = s.resetHeld ∧
    (dropOldest b s).1.links = s.links ∧ (dropOldest b s).1.berths = s.berths ∧
    (dropOldest b s).1.units = s.units ∧ (dropOldest b s).1.pool = s.pool ∧
    (dropOldest b s).1.references = s.references ∧ (dropOldest b s).1.capture = s.capture ∧
    (dropOldest b s).1.port = s.port ∧ (dropOldest b s).1.syncs = s.syncs ∧ (dropOldest b s).1.ramps = s.ramps ∧
    (dropOldest b s).1.budget = s.budget ∧ (dropOldest b s).1.sections = s.sections ∧
    (dropOldest b s).1.meters = s.meters ∧ (dropOldest b s).1.tariff = s.tariff ∧
    (dropOldest b s).1.settings = s.settings ∧ (dropOldest b s).1.sent = s.sent ∧
    (dropOldest b s).1.freeCount = s.freeCount ∧ (dropOldest b s).1.pending = s.pending ∧
    (∀ c, (dropOldest b s).1.berth c = s.berth c) ∧ (∀ c, (dropOldest b s).1.sec c = s.sec c) ∧
    (∀ c, (dropOldest b s).1.unit c = s.unit c) ∧ (∀ c, (dropOldest b s).1.reference c = s.reference c) ∧
    (∀ c, (dropOldest b s).1.sync c = s.sync c) ∧ (∀ c, (dropOldest b s).1.ramp c = s.ramp c) ∧
    (∀ c, (dropOldest b s).1.meter c = s.meter c) := by
  unfold dropOldest; (try dsimp only); (repeat' split) <;> simp

/-- What `raiseCount` leaves alone. -/
@[simp] theorem raiseCount_frame (r : RecordRef) (s : State) :
    (raiseCount r s).now = s.now ∧ (raiseCount r s).resetHeld = s.resetHeld ∧ (raiseCount r s).links = s.links ∧
    (raiseCount r s).berths = s.berths ∧ (raiseCount r s).units = s.units ∧ (raiseCount r s).pool = s.pool ∧
    (raiseCount r s).references = s.references ∧ (raiseCount r s).capture = s.capture ∧
    (raiseCount r s).port = s.port ∧ (raiseCount r s).syncs = s.syncs ∧ (raiseCount r s).ramps = s.ramps ∧
    (raiseCount r s).budget = s.budget ∧ (raiseCount r s).sections = s.sections ∧
    (raiseCount r s).meters = s.meters ∧ (raiseCount r s).tariff = s.tariff ∧
    (raiseCount r s).settings = s.settings ∧ (raiseCount r s).sent = s.sent ∧
    (raiseCount r s).freeCount = s.freeCount ∧ (raiseCount r s).pending = s.pending ∧
    (∀ c, (raiseCount r s).berth c = s.berth c) ∧ (∀ c, (raiseCount r s).sec c = s.sec c) ∧
    (∀ c, (raiseCount r s).unit c = s.unit c) ∧ (∀ c, (raiseCount r s).reference c = s.reference c) ∧
    (∀ c, (raiseCount r s).sync c = s.sync c) ∧ (∀ c, (raiseCount r s).ramp c = s.ramp c) ∧
    (∀ c, (raiseCount r s).meter c = s.meter c) := by
  unfold raiseCount
  exact ⟨foldl_keeps State.now _ (by intros; split <;> simp) _ _,
    foldl_keeps State.resetHeld _ (by intros; split <;> simp) _ _,
    foldl_keeps State.links _ (by intros; split <;> simp) _ _,
    foldl_keeps State.berths _ (by intros; split <;> simp) _ _,
    foldl_keeps State.units _ (by intros; split <;> simp) _ _,
    foldl_keeps State.pool _ (by intros; split <;> simp) _ _,
    foldl_keeps State.references _ (by intros; split <;> simp) _ _,
    foldl_keeps State.capture _ (by intros; split <;> simp) _ _,
    foldl_keeps State.port _ (by intros; split <;> simp) _ _,
    foldl_keeps State.syncs _ (by intros; split <;> simp) _ _,
    foldl_keeps State.ramps _ (by intros; split <;> simp) _ _,
    foldl_keeps State.budget _ (by intros; split <;> simp) _ _,
    foldl_keeps State.sections _ (by intros; split <;> simp) _ _,
    foldl_keeps State.meters _ (by intros; split <;> simp) _ _,
    foldl_keeps State.tariff _ (by intros; split <;> simp) _ _,
    foldl_keeps State.settings _ (by intros; split <;> simp) _ _,
    foldl_keeps State.sent _ (by intros; split <;> simp) _ _,
    foldl_keeps State.freeCount _ (by intros; split <;> simp) _ _,
    foldl_keeps State.pending _ (by intros; split <;> simp) _ _,
    fun c => foldl_keeps (fun s => s.berth c) _ (by intros; split <;> simp) _ _,
    fun c => foldl_keeps (fun s => s.sec c) _ (by intros; split <;> simp) _ _,
    fun c => foldl_keeps (fun s => s.unit c) _ (by intros; split <;> simp) _ _,
    fun c => foldl_keeps (fun s => s.reference c) _ (by intros; split <;> simp) _ _,
    fun c => foldl_keeps (fun s => s.sync c) _ (by intros; split <;> simp) _ _,
    fun c => foldl_keeps (fun s => s.ramp c) _ (by intros; split <;> simp) _ _,
    fun c => foldl_keeps (fun s => s.meter c) _ (by intros; split <;> simp) _ _⟩

/-- What `joinCopyQueue` leaves alone. -/
@[simp] theorem joinCopyQueue_frame (b : Berth) (r : RecordRef) (s : State) :
    (joinCopyQueue b r s).now = s.now ∧ (joinCopyQueue b r s).resetHeld = s.resetHeld ∧
    (joinCopyQueue b r s).berths = s.berths ∧ (joinCopyQueue b r s).units = s.units ∧
    (joinCopyQueue b r s).pool = s.pool ∧ (joinCopyQueue b r s).references = s.references ∧
    (joinCopyQueue b r s).capture = s.capture ∧ (joinCopyQueue b r s).port = s.port ∧
    (joinCopyQueue b r s).syncs = s.syncs ∧ (joinCopyQueue b r s).ramps = s.ramps ∧
    (joinCopyQueue b r s).budget = s.budget ∧ (joinCopyQueue b r s).sections = s.sections ∧
    (joinCopyQueue b r s).meters = s.meters ∧ (joinCopyQueue b r s).tariff = s.tariff ∧
    (joinCopyQueue b r s).settings = s.settings ∧ (joinCopyQueue b r s).freeCount = s.freeCount ∧
    (joinCopyQueue b r s).pending = s.pending ∧ (∀ c, (joinCopyQueue b r s).berth c = s.berth c) ∧
    (∀ c, (joinCopyQueue b r s).sec c = s.sec c) ∧ (∀ c, (joinCopyQueue b r s).unit c = s.unit c) ∧
    (∀ c, (joinCopyQueue b r s).reference c = s.reference c) ∧ (∀ c, (joinCopyQueue b r s).sync c = s.sync c) ∧
    (∀ c, (joinCopyQueue b r s).ramp c = s.ramp c) ∧ (∀ c, (joinCopyQueue b r s).meter c = s.meter c) ∧
    (∀ k, ((joinCopyQueue b r s).links.get k).up = (s.links.get k).up) := by
  unfold joinCopyQueue; (try dsimp only); (repeat' split) <;> simp

/-- What `fillSlots` leaves alone. -/
@[simp] theorem fillSlots_frame (n : BitVec 16) (r : PoolRecord) (l : List SlotId) (s : State) :
    (fillSlots n r l s).now = s.now ∧ (fillSlots n r l s).resetHeld = s.resetHeld ∧
    (fillSlots n r l s).links = s.links ∧ (fillSlots n r l s).berths = s.berths ∧
    (fillSlots n r l s).units = s.units ∧ (fillSlots n r l s).pool = s.pool ∧
    (fillSlots n r l s).references = s.references ∧ (fillSlots n r l s).capture = s.capture ∧
    (fillSlots n r l s).port = s.port ∧ (fillSlots n r l s).syncs = s.syncs ∧
    (fillSlots n r l s).ramps = s.ramps ∧ (fillSlots n r l s).budget = s.budget ∧
    (fillSlots n r l s).sections = s.sections ∧ (fillSlots n r l s).meters = s.meters ∧
    (fillSlots n r l s).tariff = s.tariff ∧ (fillSlots n r l s).settings = s.settings ∧
    (fillSlots n r l s).sent = s.sent ∧ (fillSlots n r l s).freeCount = s.freeCount ∧
    (fillSlots n r l s).pending = s.pending ∧ (∀ c, (fillSlots n r l s).berth c = s.berth c) ∧
    (∀ c, (fillSlots n r l s).sec c = s.sec c) ∧ (∀ c, (fillSlots n r l s).unit c = s.unit c) ∧
    (∀ c, (fillSlots n r l s).reference c = s.reference c) ∧ (∀ c, (fillSlots n r l s).sync c = s.sync c) ∧
    (∀ c, (fillSlots n r l s).ramp c = s.ramp c) ∧ (∀ c, (fillSlots n r l s).meter c = s.meter c) := by
  unfold fillSlots
  exact ⟨foldl_keeps State.now _ (by intros; simp) _ _,
    foldl_keeps State.resetHeld _ (by intros; simp) _ _,
    foldl_keeps State.links _ (by intros; simp) _ _,
    foldl_keeps State.berths _ (by intros; simp) _ _,
    foldl_keeps State.units _ (by intros; simp) _ _,
    foldl_keeps State.pool _ (by intros; simp) _ _,
    foldl_keeps State.references _ (by intros; simp) _ _,
    foldl_keeps State.capture _ (by intros; simp) _ _,
    foldl_keeps State.port _ (by intros; simp) _ _,
    foldl_keeps State.syncs _ (by intros; simp) _ _,
    foldl_keeps State.ramps _ (by intros; simp) _ _,
    foldl_keeps State.budget _ (by intros; simp) _ _,
    foldl_keeps State.sections _ (by intros; simp) _ _,
    foldl_keeps State.meters _ (by intros; simp) _ _,
    foldl_keeps State.tariff _ (by intros; simp) _ _,
    foldl_keeps State.settings _ (by intros; simp) _ _,
    foldl_keeps State.sent _ (by intros; simp) _ _,
    foldl_keeps State.freeCount _ (by intros; simp) _ _,
    foldl_keeps State.pending _ (by intros; simp) _ _,
    fun c => foldl_keeps (fun s => s.berth c) _ (by intros; simp) _ _,
    fun c => foldl_keeps (fun s => s.sec c) _ (by intros; simp) _ _,
    fun c => foldl_keeps (fun s => s.unit c) _ (by intros; simp) _ _,
    fun c => foldl_keeps (fun s => s.reference c) _ (by intros; simp) _ _,
    fun c => foldl_keeps (fun s => s.sync c) _ (by intros; simp) _ _,
    fun c => foldl_keeps (fun s => s.ramp c) _ (by intros; simp) _ _,
    fun c => foldl_keeps (fun s => s.meter c) _ (by intros; simp) _ _⟩

/-- What `beginRecord` leaves alone. -/
@[simp] theorem beginRecord_frame (r : PoolRecord) (ref : RecordRef) (s : State) :
    (beginRecord r ref s).now = s.now ∧ (beginRecord r ref s).resetHeld = s.resetHeld ∧
    (beginRecord r ref s).berths = s.berths ∧ (beginRecord r ref s).units = s.units ∧
    (beginRecord r ref s).pool = s.pool ∧
    (beginRecord r ref s).references = s.references ∧
    (beginRecord r ref s).capture = s.capture ∧ (beginRecord r ref s).port = s.port ∧
    (beginRecord r ref s).syncs = s.syncs ∧ (beginRecord r ref s).ramps = s.ramps ∧
    (beginRecord r ref s).budget = s.budget ∧
    (beginRecord r ref s).sections = s.sections ∧
    (beginRecord r ref s).meters = s.meters ∧ (beginRecord r ref s).tariff = s.tariff ∧
    (beginRecord r ref s).settings = s.settings ∧
    (beginRecord r ref s).freeCount = s.freeCount ∧
    (beginRecord r ref s).pending = s.pending ∧
    (∀ c, (beginRecord r ref s).berth c = s.berth c) ∧
    (∀ c, (beginRecord r ref s).sec c = s.sec c) ∧
    (∀ c, (beginRecord r ref s).unit c = s.unit c) ∧
    (∀ c, (beginRecord r ref s).reference c = s.reference c) ∧
    (∀ c, (beginRecord r ref s).sync c = s.sync c) ∧
    (∀ c, (beginRecord r ref s).ramp c = s.ramp c) ∧
    (∀ c, (beginRecord r ref s).meter c = s.meter c) ∧
    (∀ k, ((beginRecord r ref s).links.get k).up = (s.links.get k).up) := by
  simp [beginRecord]

theorem poolWork_release (fuel : Nat) (i : SlotId) (rest : List PoolTask) (s : State) :
    poolWork (fuel + 1) (.release i :: rest) s =
      match s.records.held with
      | [] => poolWork fuel rest (testPoolLow (setSlot i .free s))
      | h :: hs =>
        let s' := (s.modRecords fun p => { p with held := hs }).modMeter h.berth fun m => { m with held := none }
        match (s.meter h.berth).held with
        | none => poolWork fuel (.release i :: rest) s'
        | some r =>
          poolWork fuel (if h.copyWanted then insertJoin r.berth (s'.nextRef i none) rest else rest)
            (beginRecord (.interval r) (s'.nextRef i none) s') := by
  rfl

theorem poolWork_join (fuel : Nat) (b : Berth) (ref : RecordRef) (rest : List PoolTask) (s : State) :
    poolWork (fuel + 1) (.join b ref :: rest) s =
      if 8 ≤ (s.records.copyQueues.get b).length then
        poolWork fuel ((dropOldest b s).2.map PoolTask.release ++ .join b ref :: rest) (dropOldest b s).1
      else poolWork fuel rest (testPoolLow (joinCopyQueue b ref s)) := by
  rfl

@[simp] theorem poolWork_nil (fuel : Nat) (s : State) : poolWork fuel [] s = s := by
  cases fuel <;> rfl

/-- What `poolWork` leaves alone. -/
@[simp] theorem poolWork_frame (fuel : Nat) (tasks : List PoolTask) (s : State) :
    (poolWork fuel tasks s).now = s.now ∧ (poolWork fuel tasks s).resetHeld = s.resetHeld ∧
    (poolWork fuel tasks s).berths = s.berths ∧ (poolWork fuel tasks s).units = s.units ∧
    (poolWork fuel tasks s).pool = s.pool ∧ (poolWork fuel tasks s).references = s.references ∧
    (poolWork fuel tasks s).capture = s.capture ∧ (poolWork fuel tasks s).port = s.port ∧
    (poolWork fuel tasks s).syncs = s.syncs ∧ (poolWork fuel tasks s).ramps = s.ramps ∧
    (poolWork fuel tasks s).budget = s.budget ∧ (poolWork fuel tasks s).sections = s.sections ∧
    (poolWork fuel tasks s).tariff = s.tariff ∧ (poolWork fuel tasks s).settings = s.settings ∧
    (poolWork fuel tasks s).freeCount = s.freeCount ∧ (poolWork fuel tasks s).pending = s.pending ∧
    (∀ c, (poolWork fuel tasks s).berth c = s.berth c) ∧
    (∀ c, (poolWork fuel tasks s).sec c = s.sec c) ∧
    (∀ c, (poolWork fuel tasks s).unit c = s.unit c) ∧
    (∀ c, (poolWork fuel tasks s).reference c = s.reference c) ∧
    (∀ c, (poolWork fuel tasks s).sync c = s.sync c) ∧
    (∀ c, (poolWork fuel tasks s).ramp c = s.ramp c) ∧
    (∀ k, ((poolWork fuel tasks s).links.get k).up = (s.links.get k).up) := by
  induction fuel generalizing tasks s with
  | zero => cases tasks <;> simp [poolWork]
  | succ fuel ih =>
    cases tasks with
    | nil => simp
    | cons t rest =>
      cases t with
      | release i =>
        rw [poolWork_release]
        split
        · simp [ih]
        · dsimp only
          split <;> simp [ih]
      | join b ref =>
        rw [poolWork_join]
        split <;> simp [ih]

/-- What `releaseSlots` leaves alone. -/
@[simp] theorem releaseSlots_frame (work : List SlotId) (s : State) :
    (releaseSlots work s).now = s.now ∧ (releaseSlots work s).resetHeld = s.resetHeld ∧
    (releaseSlots work s).berths = s.berths ∧ (releaseSlots work s).units = s.units ∧
    (releaseSlots work s).pool = s.pool ∧ (releaseSlots work s).references = s.references ∧
    (releaseSlots work s).capture = s.capture ∧ (releaseSlots work s).port = s.port ∧
    (releaseSlots work s).syncs = s.syncs ∧ (releaseSlots work s).ramps = s.ramps ∧
    (releaseSlots work s).budget = s.budget ∧ (releaseSlots work s).sections = s.sections ∧
    (releaseSlots work s).tariff = s.tariff ∧ (releaseSlots work s).settings = s.settings ∧
    (releaseSlots work s).freeCount = s.freeCount ∧ (releaseSlots work s).pending = s.pending ∧
    (∀ c, (releaseSlots work s).berth c = s.berth c) ∧ (∀ c, (releaseSlots work s).sec c = s.sec c) ∧
    (∀ c, (releaseSlots work s).unit c = s.unit c) ∧ (∀ c, (releaseSlots work s).reference c = s.reference c) ∧
    (∀ c, (releaseSlots work s).sync c = s.sync c) ∧ (∀ c, (releaseSlots work s).ramp c = s.ramp c) ∧
    (∀ k, ((releaseSlots work s).links.get k).up = (s.links.get k).up) := by
  simp [releaseSlots]

theorem writeRecord_eq (r : PoolRecord) (first : SlotId) (second : Option SlotId) (s : State) :
    writeRecord r first second s =
      poolWork (s.poolTurns 1) [.join r.berth (s.nextRef first second)] (beginRecord r (s.nextRef first second) s) := rfl

/-- What `writeRecord` leaves alone. -/
@[simp] theorem writeRecord_frame (r : PoolRecord) (first : SlotId) (second : Option SlotId) (s : State) :
    (writeRecord r first second s).now = s.now ∧ (writeRecord r first second s).resetHeld = s.resetHeld ∧
    (writeRecord r first second s).berths = s.berths ∧ (writeRecord r first second s).units = s.units ∧
    (writeRecord r first second s).pool = s.pool ∧ (writeRecord r first second s).references = s.references ∧
    (writeRecord r first second s).capture = s.capture ∧ (writeRecord r first second s).port = s.port ∧
    (writeRecord r first second s).syncs = s.syncs ∧ (writeRecord r first second s).ramps = s.ramps ∧
    (writeRecord r first second s).budget = s.budget ∧ (writeRecord r first second s).sections = s.sections ∧
    (writeRecord r first second s).tariff = s.tariff ∧ (writeRecord r first second s).settings = s.settings ∧
    (writeRecord r first second s).freeCount = s.freeCount ∧
    (writeRecord r first second s).pending = s.pending ∧
    (∀ c, (writeRecord r first second s).berth c = s.berth c) ∧
    (∀ c, (writeRecord r first second s).sec c = s.sec c) ∧
    (∀ c, (writeRecord r first second s).unit c = s.unit c) ∧
    (∀ c, (writeRecord r first second s).reference c = s.reference c) ∧
    (∀ c, (writeRecord r first second s).sync c = s.sync c) ∧
    (∀ c, (writeRecord r first second s).ramp c = s.ramp c) ∧
    (∀ k, ((writeRecord r first second s).links.get k).up = (s.links.get k).up) := by
  rw [writeRecord_eq]; simp

/-- What `reserveSummary` leaves alone. -/
@[simp] theorem reserveSummary_frame (b : Berth) (s : State) :
    (reserveSummary b s).1.now = s.now ∧ (reserveSummary b s).1.resetHeld = s.resetHeld ∧
    (reserveSummary b s).1.units = s.units ∧ (reserveSummary b s).1.pool = s.pool ∧
    (reserveSummary b s).1.references = s.references ∧ (reserveSummary b s).1.capture = s.capture ∧
    (reserveSummary b s).1.port = s.port ∧ (reserveSummary b s).1.syncs = s.syncs ∧
    (reserveSummary b s).1.ramps = s.ramps ∧ (reserveSummary b s).1.budget = s.budget ∧
    (reserveSummary b s).1.sections = s.sections ∧ (reserveSummary b s).1.meters = s.meters ∧
    (reserveSummary b s).1.tariff = s.tariff ∧ (reserveSummary b s).1.settings = s.settings ∧
    (reserveSummary b s).1.freeCount = s.freeCount ∧ (reserveSummary b s).1.pending = s.pending ∧
    (∀ c, ((reserveSummary b s).1.berth c).inService = (s.berth c).inService) ∧
    (∀ c, ((reserveSummary b s).1.berth c).stage = (s.berth c).stage) ∧
    (∀ c, ((reserveSummary b s).1.berth c).holder = (s.berth c).holder) ∧
    (∀ c, ((reserveSummary b s).1.berth c).pendingSince = (s.berth c).pendingSince) ∧
    (∀ c, ((reserveSummary b s).1.berth c).agreement = (s.berth c).agreement) ∧
    (∀ c, ((reserveSummary b s).1.berth c).causes = (s.berth c).causes) ∧
    (∀ c, ((reserveSummary b s).1.berth c).status = (s.berth c).status) ∧
    (∀ c, ((reserveSummary b s).1.berth c).moduleCount = (s.berth c).moduleCount) ∧
    (∀ c, ((reserveSummary b s).1.berth c).linkLost = (s.berth c).linkLost) ∧
    (∀ c, ((reserveSummary b s).1.berth c).syncHold = (s.berth c).syncHold) ∧
    (∀ c, ((reserveSummary b s).1.berth c).separationCause = (s.berth c).separationCause) ∧
    (∀ c, ((reserveSummary b s).1.berth c).stageTimer = (s.berth c).stageTimer) ∧
    (∀ c, ((reserveSummary b s).1.berth c).qualification = (s.berth c).qualification) ∧
    (∀ c, (reserveSummary b s).1.sec c = s.sec c) ∧ (∀ c, (reserveSummary b s).1.unit c = s.unit c) ∧
    (∀ c, (reserveSummary b s).1.reference c = s.reference c) ∧
    (∀ c, (reserveSummary b s).1.sync c = s.sync c) ∧ (∀ c, (reserveSummary b s).1.ramp c = s.ramp c) ∧
    (∀ c, (reserveSummary b s).1.meter c = s.meter c) ∧
    (∀ k, ((reserveSummary b s).1.links.get k).up = (s.links.get k).up) := by
  unfold reserveSummary; (repeat' split) <;> simp

/-- What `returnReservation` leaves alone. -/
@[simp] theorem returnReservation_frame (b : Berth) (s : State) :
    (returnReservation b s).now = s.now ∧ (returnReservation b s).resetHeld = s.resetHeld ∧
    (returnReservation b s).units = s.units ∧ (returnReservation b s).pool = s.pool ∧
    (returnReservation b s).references = s.references ∧ (returnReservation b s).capture = s.capture ∧
    (returnReservation b s).port = s.port ∧ (returnReservation b s).syncs = s.syncs ∧
    (returnReservation b s).ramps = s.ramps ∧ (returnReservation b s).budget = s.budget ∧
    (returnReservation b s).sections = s.sections ∧ (returnReservation b s).tariff = s.tariff ∧
    (returnReservation b s).settings = s.settings ∧ (returnReservation b s).freeCount = s.freeCount ∧
    (returnReservation b s).pending = s.pending ∧
    (∀ c, ((returnReservation b s).berth c).inService = (s.berth c).inService) ∧
    (∀ c, ((returnReservation b s).berth c).stage = (s.berth c).stage) ∧
    (∀ c, ((returnReservation b s).berth c).holder = (s.berth c).holder) ∧
    (∀ c, ((returnReservation b s).berth c).pendingSince = (s.berth c).pendingSince) ∧
    (∀ c, ((returnReservation b s).berth c).agreement = (s.berth c).agreement) ∧
    (∀ c, ((returnReservation b s).berth c).causes = (s.berth c).causes) ∧
    (∀ c, ((returnReservation b s).berth c).status = (s.berth c).status) ∧
    (∀ c, ((returnReservation b s).berth c).moduleCount = (s.berth c).moduleCount) ∧
    (∀ c, ((returnReservation b s).berth c).linkLost = (s.berth c).linkLost) ∧
    (∀ c, ((returnReservation b s).berth c).syncHold = (s.berth c).syncHold) ∧
    (∀ c, ((returnReservation b s).berth c).separationCause = (s.berth c).separationCause) ∧
    (∀ c, ((returnReservation b s).berth c).stageTimer = (s.berth c).stageTimer) ∧
    (∀ c, ((returnReservation b s).berth c).qualification = (s.berth c).qualification) ∧
    (∀ c, (returnReservation b s).sec c = s.sec c) ∧ (∀ c, (returnReservation b s).unit c = s.unit c) ∧
    (∀ c, (returnReservation b s).reference c = s.reference c) ∧
    (∀ c, (returnReservation b s).sync c = s.sync c) ∧ (∀ c, (returnReservation b s).ramp c = s.ramp c) ∧
    (∀ k, ((returnReservation b s).links.get k).up = (s.links.get k).up) := by
  simp [returnReservation]

/-- What `writeSummary` leaves alone. -/
@[simp] theorem writeSummary_frame (b : Berth) (r : SummaryRecord) (s : State) :
    (writeSummary b r s).now = s.now ∧ (writeSummary b r s).resetHeld = s.resetHeld ∧
    (writeSummary b r s).units = s.units ∧ (writeSummary b r s).pool = s.pool ∧
    (writeSummary b r s).references = s.references ∧ (writeSummary b r s).capture = s.capture ∧
    (writeSummary b r s).port = s.port ∧ (writeSummary b r s).syncs = s.syncs ∧
    (writeSummary b r s).ramps = s.ramps ∧ (writeSummary b r s).budget = s.budget ∧
    (writeSummary b r s).sections = s.sections ∧ (writeSummary b r s).tariff = s.tariff ∧
    (writeSummary b r s).settings = s.settings ∧ (writeSummary b r s).freeCount = s.freeCount ∧
    (writeSummary b r s).pending = s.pending ∧
    (∀ c, ((writeSummary b r s).berth c).inService = (s.berth c).inService) ∧
    (∀ c, ((writeSummary b r s).berth c).stage = (s.berth c).stage) ∧
    (∀ c, ((writeSummary b r s).berth c).holder = (s.berth c).holder) ∧
    (∀ c, ((writeSummary b r s).berth c).pendingSince = (s.berth c).pendingSince) ∧
    (∀ c, ((writeSummary b r s).berth c).agreement = (s.berth c).agreement) ∧
    (∀ c, ((writeSummary b r s).berth c).causes = (s.berth c).causes) ∧
    (∀ c, ((writeSummary b r s).berth c).status = (s.berth c).status) ∧
    (∀ c, ((writeSummary b r s).berth c).moduleCount = (s.berth c).moduleCount) ∧
    (∀ c, ((writeSummary b r s).berth c).linkLost = (s.berth c).linkLost) ∧
    (∀ c, ((writeSummary b r s).berth c).syncHold = (s.berth c).syncHold) ∧
    (∀ c, ((writeSummary b r s).berth c).separationCause = (s.berth c).separationCause) ∧
    (∀ c, ((writeSummary b r s).berth c).stageTimer = (s.berth c).stageTimer) ∧
    (∀ c, ((writeSummary b r s).berth c).qualification = (s.berth c).qualification) ∧
    (∀ c, (writeSummary b r s).sec c = s.sec c) ∧ (∀ c, (writeSummary b r s).unit c = s.unit c) ∧
    (∀ c, (writeSummary b r s).reference c = s.reference c) ∧ (∀ c, (writeSummary b r s).sync c = s.sync c) ∧
    (∀ c, (writeSummary b r s).ramp c = s.ramp c) ∧
    (∀ k, ((writeSummary b r s).links.get k).up = (s.links.get k).up) := by
  unfold writeSummary; (try dsimp only); (repeat' split) <;> simp

theorem releaseEntry_eq (r : RecordRef) (s : State) :
    releaseEntry r s = releaseSlots (lowerCount r s).2 (lowerCount r s).1 := rfl

/-- What `releaseEntry` leaves alone. -/
@[simp] theorem releaseEntry_frame (r : RecordRef) (s : State) :
    (releaseEntry r s).now = s.now ∧ (releaseEntry r s).resetHeld = s.resetHeld ∧
    (releaseEntry r s).berths = s.berths ∧ (releaseEntry r s).units = s.units ∧
    (releaseEntry r s).pool = s.pool ∧ (releaseEntry r s).references = s.references ∧
    (releaseEntry r s).capture = s.capture ∧ (releaseEntry r s).port = s.port ∧
    (releaseEntry r s).syncs = s.syncs ∧ (releaseEntry r s).ramps = s.ramps ∧
    (releaseEntry r s).budget = s.budget ∧ (releaseEntry r s).sections = s.sections ∧
    (releaseEntry r s).tariff = s.tariff ∧ (releaseEntry r s).settings = s.settings ∧
    (releaseEntry r s).freeCount = s.freeCount ∧ (releaseEntry r s).pending = s.pending ∧
    (∀ c, (releaseEntry r s).berth c = s.berth c) ∧ (∀ c, (releaseEntry r s).sec c = s.sec c) ∧
    (∀ c, (releaseEntry r s).unit c = s.unit c) ∧ (∀ c, (releaseEntry r s).reference c = s.reference c) ∧
    (∀ c, (releaseEntry r s).sync c = s.sync c) ∧ (∀ c, (releaseEntry r s).ramp c = s.ramp c) ∧
    (∀ k, ((releaseEntry r s).links.get k).up = (s.links.get k).up) := by
  rw [releaseEntry_eq]; simp

/-- What `removeCopies` leaves alone. -/
@[simp] theorem removeCopies_frame (b : Berth) (queue : List RecordRef) (s : State) :
    (removeCopies b queue s).now = s.now ∧ (removeCopies b queue s).resetHeld = s.resetHeld ∧
    (removeCopies b queue s).berths = s.berths ∧ (removeCopies b queue s).units = s.units ∧
    (removeCopies b queue s).pool = s.pool ∧ (removeCopies b queue s).references = s.references ∧
    (removeCopies b queue s).capture = s.capture ∧ (removeCopies b queue s).port = s.port ∧
    (removeCopies b queue s).syncs = s.syncs ∧ (removeCopies b queue s).ramps = s.ramps ∧
    (removeCopies b queue s).budget = s.budget ∧ (removeCopies b queue s).sections = s.sections ∧
    (removeCopies b queue s).tariff = s.tariff ∧ (removeCopies b queue s).settings = s.settings ∧
    (removeCopies b queue s).freeCount = s.freeCount ∧ (removeCopies b queue s).pending = s.pending ∧
    (∀ c, (removeCopies b queue s).berth c = s.berth c) ∧ (∀ c, (removeCopies b queue s).sec c = s.sec c) ∧
    (∀ c, (removeCopies b queue s).unit c = s.unit c) ∧
    (∀ c, (removeCopies b queue s).reference c = s.reference c) ∧
    (∀ c, (removeCopies b queue s).sync c = s.sync c) ∧ (∀ c, (removeCopies b queue s).ramp c = s.ramp c) ∧
    (∀ k, ((removeCopies b queue s).links.get k).up = (s.links.get k).up) := by
  induction queue generalizing s with
  | nil => simp [removeCopies]
  | cons r rest ih => simp [removeCopies, ih]

/-- What `emptyCopies` leaves alone. -/
@[simp] theorem emptyCopies_frame (b : Berth) (s : State) :
    (emptyCopies b s).now = s.now ∧ (emptyCopies b s).resetHeld = s.resetHeld ∧
    (emptyCopies b s).berths = s.berths ∧ (emptyCopies b s).units = s.units ∧ (emptyCopies b s).pool = s.pool ∧
    (emptyCopies b s).references = s.references ∧ (emptyCopies b s).capture = s.capture ∧
    (emptyCopies b s).port = s.port ∧ (emptyCopies b s).syncs = s.syncs ∧ (emptyCopies b s).ramps = s.ramps ∧
    (emptyCopies b s).budget = s.budget ∧ (emptyCopies b s).sections = s.sections ∧
    (emptyCopies b s).tariff = s.tariff ∧ (emptyCopies b s).settings = s.settings ∧
    (emptyCopies b s).freeCount = s.freeCount ∧ (emptyCopies b s).pending = s.pending ∧
    (∀ c, (emptyCopies b s).berth c = s.berth c) ∧ (∀ c, (emptyCopies b s).sec c = s.sec c) ∧
    (∀ c, (emptyCopies b s).unit c = s.unit c) ∧ (∀ c, (emptyCopies b s).reference c = s.reference c) ∧
    (∀ c, (emptyCopies b s).sync c = s.sync c) ∧ (∀ c, (emptyCopies b s).ramp c = s.ramp c) ∧
    (∀ k, ((emptyCopies b s).links.get k).up = (s.links.get k).up) := by
  simp [emptyCopies]

/-- What `testPoolLow` leaves alone of the Record Pool: all but the pool-low condition. -/
theorem testPoolLow_records (s : State) :
    (testPoolLow s).records = { s.records with poolLow := (testPoolLow s).records.poolLow } := by
  unfold testPoolLow; dsimp only; (repeat' split) <;> simp [State.modRecords]

/-- The pool-low condition after its test: set below 4 free slots, kept until 8 are free (R160). -/
theorem testPoolLow_poolLow (s : State) :
    (testPoolLow s).records.poolLow =
      (!s.records.poolLow && decide (s.records.freeSlotCount < 4) ||
        s.records.poolLow && decide (s.records.freeSlotCount < 8)) := by
  unfold testPoolLow; dsimp only
  cases h : s.records.poolLow
  · by_cases h' : s.records.freeSlotCount < 4 <;> simp [h, h', State.modRecords]
  · by_cases h' : s.records.freeSlotCount < 8
    · simp [h, h', Nat.not_le.mpr h']
    · simp [h', State.modRecords, Nat.le_of_not_lt h']

/-- A record joins the tariff queue, and the queue, if it was empty and armed, is armed no more (R161). -/
theorem joinTariffQueue_tariffArmed (r : RecordRef) (s : State) :
    (joinTariffQueue r s).records.tariffArmed =
      (s.records.tariffArmed && !(s.records.tariffQueue.isEmpty && s.records.tariffArmed)) := by
  unfold joinTariffQueue; dsimp only
  cases h : s.records.tariffQueue.isEmpty <;> cases h' : s.records.tariffArmed <;> simp [h', State.modRecords]

/-- What `setSlot` does to the Record Pool. -/
theorem setSlot_get (i j : SlotId) (x : Slot) (s : State) :
    (setSlot i x s).records.slots.get j = if j = i then x else s.records.slots.get j := by
  change (s.records.slots.set i.val x)[j.val] = if j = i then x else s.records.slots[j.val]
  rw [Vector.getElem_set]
  simp only [Fin.ext_iff, eq_comm]

/-- The Record Pool but for its slots and its pool-low condition. -/
def RecordPool.queuesOf (p : RecordPool) : RecordPool :=
  { p with slots := Vector.replicate 48 .free, poolLow := false }

theorem setSlot_queuesOf (i : SlotId) (x : Slot) (s : State) :
    (setSlot i x s).records.queuesOf = s.records.queuesOf := rfl

theorem testPoolLow_queuesOf (s : State) : (testPoolLow s).records.queuesOf = s.records.queuesOf := by
  rw [testPoolLow_records]; rfl

/-- What setting slots free does with no record held: they become FREE, and nothing else of the pool changes but the
pool-low condition (R159). -/
theorem poolWork_releases (fuel : Nat) (work : List SlotId) (s : State) (h : work.length ≤ fuel)
    (held : s.records.held = []) :
    (poolWork fuel (work.map PoolTask.release) s).records.queuesOf = s.records.queuesOf ∧
      ∀ j, (poolWork fuel (work.map PoolTask.release) s).records.slots.get j =
        if j ∈ work then .free else s.records.slots.get j := by
  induction work generalizing fuel s with
  | nil => simp
  | cons i rest ih =>
    obtain ⟨fuel, rfl⟩ : ∃ n, fuel = n + 1 := ⟨fuel - 1, by simp at h; omega⟩
    rw [List.map_cons, poolWork_release, held]
    dsimp only
    have hq : (testPoolLow (setSlot i .free s)).records.queuesOf = s.records.queuesOf := by
      rw [testPoolLow_queuesOf, setSlot_queuesOf]
    have hh : (testPoolLow (setSlot i .free s)).records.held = [] := by
      rw [testPoolLow_records]; exact held
    obtain ⟨h1, h2⟩ := ih fuel _ (by simpa using h) hh
    refine ⟨h1.trans hq, fun j => ?_⟩
    rw [h2 j, show (testPoolLow (setSlot i .free s)).records.slots.get j = (setSlot i .free s).records.slots.get j by
      rw [testPoolLow_records], setSlot_get]
    by_cases hr : j ∈ rest <;> by_cases hi : j = i <;> simp [hr, hi]

/-- What `releaseSlots` does with no record held (R159). -/
theorem releaseSlots_free (work : List SlotId) (s : State) (held : s.records.held = []) :
    (releaseSlots work s).records.queuesOf = s.records.queuesOf ∧
      ∀ j, (releaseSlots work s).records.slots.get j = if j ∈ work then .free else s.records.slots.get j :=
  poolWork_releases _ work s (by simp only [State.poolTurns]; omega) held

/-- A slot whose count has been lowered so many times. -/
def Slot.less (k : Nat) (x : Slot) : Slot :=
  match x with
  | .used n r c => .used n r (c - k)
  | y => y

/-- Does a slot's count reach 0 when it is lowered so many times? -/
def Slot.spent (k : Nat) (x : Slot) : Bool :=
  match x with
  | .used _ _ c => decide (0 < k) && decide (c ≤ k)
  | _ => false

/-- What `lowerSlot` does (R155). -/
theorem lowerSlot_get (i j : SlotId) (s : State) :
    (lowerSlot i s).1.records.queuesOf = s.records.queuesOf ∧
      (lowerSlot i s).1.records.slots.get j = (s.records.slots.get j).less (if j = i then 1 else 0) ∧
      (lowerSlot i s).2 = (s.records.slots.get i).spent 1 := by
  unfold lowerSlot
  cases hi : s.records.slots.get i with
  | used n x c =>
    refine ⟨rfl, ?_, by simp [Slot.spent]⟩
    rw [setSlot_get]
    by_cases h : j = i
    · subst h; simp [hi, Slot.less]
    · simp only [h, ↓reduceIte]; cases s.records.slots.get j <;> simp [Slot.less]
  | free =>
    refine ⟨rfl, ?_, rfl⟩
    by_cases h : j = i
    · subst h; simp [hi, Slot.less]
    · simp only [h, ↓reduceIte]; cases s.records.slots.get j <;> simp [Slot.less]
  | reserved c =>
    refine ⟨rfl, ?_, rfl⟩
    by_cases h : j = i
    · subst h; simp [hi, Slot.less]
    · simp only [h, ↓reduceIte]; cases s.records.slots.get j <;> simp [Slot.less]

theorem Slot.less_less (k n : Nat) (x : Slot) : (x.less k).less n = x.less (n + k) := by
  cases x <;> simp [Slot.less]; omega

/-- What lowering the counts of some slots, one after the other, does (R155). -/
theorem lowerSlots_get (l : List SlotId) (acc : State × List SlotId) (j : SlotId) :
    let t := l.foldl
      (fun (acc : State × List SlotId) i =>
        let (s, zero) := lowerSlot i acc.1
        (s, if zero then acc.2 ++ [i] else acc.2)) acc
    t.1.records.queuesOf = acc.1.records.queuesOf ∧
      t.1.records.slots.get j = (acc.1.records.slots.get j).less (l.count j) ∧
      (j ∈ t.2 ↔ j ∈ acc.2 ∨ (acc.1.records.slots.get j).spent (l.count j) = true) := by
  induction l generalizing acc with
  | nil =>
    refine ⟨rfl, ?_, ?_⟩
    · simp only [List.foldl_nil, List.count_nil]
      cases acc.1.records.slots.get j <;> simp [Slot.less]
    · simp only [List.foldl_nil, List.count_nil]
      cases acc.1.records.slots.get j <;> simp [Slot.spent]
  | cons i rest ih =>
    rw [List.foldl_cons]
    obtain ⟨h1, h2, h3⟩ := ih
      (let (s, zero) := lowerSlot i acc.1
       (s, if zero then acc.2 ++ [i] else acc.2))
    dsimp only at h1 h2 h3 ⊢
    obtain ⟨g1, g2, g3⟩ := lowerSlot_get i j acc.1
    have hc : (i :: rest).count j = rest.count j + if j = i then 1 else 0 := by
      rw [List.count_cons]
      by_cases h : j = i
      · simp [h]
      · simp [h, Ne.symm h]
    refine ⟨h1.trans g1, ?_, ?_⟩
    · rw [h2, g2, hc, Slot.less_less]
    · rw [h3, g2, g3, hc]
      by_cases hi : j = i
      · subst hi
        have one : (if j = j then 1 else 0 : Nat) = 1 := if_pos rfl
        rw [one]
        cases acc.1.records.slots.get j with
        | used n x c =>
          by_cases hc : c ≤ 1
          · simp [Slot.spent, Slot.less, hc]; exact Or.inr (by omega)
          · simp [Slot.spent, Slot.less, hc, -List.count_pos_iff]
            exact or_congr_right ⟨fun h => h.2, fun h => ⟨by omega, h⟩⟩
        | free => simp [Slot.spent, Slot.less]
        | reserved c => simp [Slot.spent, Slot.less]
      · have hm : j ∈ (if (acc.1.records.slots.get i).spent 1 = true then acc.2 ++ [i] else acc.2) ↔ j ∈ acc.2 := by
          split <;> simp [hi]
        rw [hm]
        simp only [hi, ↓reduceIte, Nat.add_zero]
        cases acc.1.records.slots.get j <;> simp [Slot.less]

theorem queuesOf_held {p q : RecordPool} (h : p.queuesOf = q.queuesOf) : p.held = q.held := by
  simpa [RecordPool.queuesOf] using congrArg RecordPool.held h

/-- What `releaseEntry` does with no record held: the record's slots are lowered, FREE where that is all, and nothing else
of the pool changes but the pool-low condition (R155, R159). -/
theorem releaseEntry_lowered (r : RecordRef) (s : State) (held : s.records.held = []) :
    (releaseEntry r s).records.queuesOf = s.records.queuesOf ∧
      ∀ j, (releaseEntry r s).records.slots.get j = lowered [r] j (s.records.slots.get j) := by
  have h := fun j => lowerSlots_get r.slots (s, []) j
  rw [releaseEntry_eq]
  have hq : (lowerCount r s).1.records.queuesOf = s.records.queuesOf := (h 0).1
  obtain ⟨k1, k2⟩ := releaseSlots_free (lowerCount r s).2 (lowerCount r s).1 ((queuesOf_held hq).trans held)
  refine ⟨k1.trans hq, fun j => ?_⟩
  have hl : (lowerCount r s).1.records.slots.get j = (s.records.slots.get j).less (r.slots.count j) := (h j).2.1
  have hm : j ∈ (lowerCount r s).2 ↔ (s.records.slots.get j).spent (r.slots.count j) = true := by
    have hm := (h j).2.2
    simp only [List.not_mem_nil, false_or] at hm
    exact hm
  rw [k2 j, hl]
  simp only [hm]
  simp only [lowered, List.flatMap_cons, List.flatMap_nil, List.append_nil]
  cases s.records.slots.get j with
  | used n x c =>
    by_cases h0 : r.slots.count j = 0
    · simp [h0, Slot.less, Slot.spent]
    · by_cases hc : c ≤ r.slots.count j
      · simp [h0, hc, Nat.pos_of_ne_zero h0, Slot.spent]
      · simp [h0, hc, Slot.less, Slot.spent]
  | free => simp [Slot.less, Slot.spent]
  | reserved b => simp [Slot.less, Slot.spent]

/-- Lowering by a record and then by others is lowering by all of them. -/
theorem lowered_cons (r : RecordRef) (rest : List RecordRef) (j : SlotId) (x : Slot) :
    lowered rest j (lowered [r] j x) = lowered (r :: rest) j x := by
  simp only [lowered, List.flatMap_cons, List.flatMap_nil, List.append_nil, List.count_append]
  cases x with
  | used n y c =>
    generalize r.slots.count j = k
    generalize (rest.flatMap RecordRef.slots).count j = n
    by_cases hk : k = 0
    · simp [hk]
    · by_cases hc : c ≤ k
      · have : c ≤ k + n := by omega
        simp [hk, hc, this]
      · by_cases hn : n = 0
        · simp [hk, hc, hn]
        · by_cases hd : c - k ≤ n
          · have : c ≤ k + n := by omega
            simp [hk, hc, hn, this, hd]
          · have : ¬ c ≤ k + n := by omega
            simp [hk, hc, hn, this, hd, Nat.sub_sub]
  | free => rfl
  | reserved b => rfl

/-- What `removeCopies` does with no record held (R165). -/
theorem removeCopies_lowered (b : Berth) (queue : List RecordRef) (s : State) (held : s.records.held = [])
    (h : s.records.copyQueues.get b = queue) :
    (removeCopies b queue s).records.queuesOf =
        ({ s.records with copyQueues := s.records.copyQueues.set b [] } : RecordPool).queuesOf ∧
      ∀ j, (removeCopies b queue s).records.slots.get j = lowered queue j (s.records.slots.get j) := by
  induction queue generalizing s with
  | nil =>
    refine ⟨?_, fun j => ?_⟩
    · have : s.records.copyQueues.set b [] = s.records.copyQueues := by rw [← h]; cases b <;> rfl
      rw [this]; rfl
    · simp only [removeCopies, lowered, List.flatMap_nil, List.count_nil]
      cases s.records.slots.get j <;> simp
  | cons r rest ih =>
    rw [removeCopies]
    obtain ⟨g1, g2⟩ := releaseEntry_lowered r
      (s.modRecords fun p => { p with copyQueues := p.copyQueues.set b rest }) held
    have gc : (releaseEntry r (s.modRecords fun p => { p with copyQueues := p.copyQueues.set b rest })).records.copyQueues =
        s.records.copyQueues.set b rest := by
      simpa [RecordPool.queuesOf, State.modRecords] using congrArg RecordPool.copyQueues g1
    obtain ⟨k1, k2⟩ := ih _ ((queuesOf_held g1).trans held) (by rw [gc]; cases b <;> rfl)
    refine ⟨?_, fun j => ?_⟩
    · rw [k1, gc]
      have := congrArg (fun p : RecordPool => { p with copyQueues := (s.records.copyQueues.set b rest).set b [] }) g1
      simp only [RecordPool.queuesOf, State.modRecords] at this ⊢
      rw [this]
      cases b <;> rfl
    · rw [k2 j, g2 j, lowered_cons]; rfl

end Sys2Proof.Machine
end

