-- ==== Sys2Proof/Laws/Metering.lean ====
section
/-! SUPPORT. What the operations of the Meter channels and the Tariff Unit leave alone: one lemma per operation. -/

namespace Sys2Proof.Machine

/-- Serving the berths keeps what the service of each keeps, if it does not show the numbering of free choices. -/
theorem serveBerths_keeps {β : Type} (view : State → β) (concerned : Berth → Bool) (f : Berth → State → State)
    (h : ∀ b s, view (f b s) = view s) (hn : ∀ (s : State) n, view { s with freeCount := n } = view s) (s : State) :
    view (serveBerths concerned f s) = view s := by
  unfold serveBerths
  split
  · exact foldl_keeps view (fun s b => f b s) (fun s b => h b s) _ _
  · rw [foldl_keeps view (fun s b => f b s) (fun s b => h b s) _ _, hn]

/-- What `beginConnection` leaves alone. -/
@[simp] theorem beginConnection_frame (b : Berth) (s : State) :
    (beginConnection b s).now = s.now ∧ (beginConnection b s).resetHeld = s.resetHeld ∧
    (beginConnection b s).links = s.links ∧ (beginConnection b s).berths = s.berths ∧
    (beginConnection b s).units = s.units ∧ (beginConnection b s).pool = s.pool ∧
    (beginConnection b s).references = s.references ∧ (beginConnection b s).capture = s.capture ∧
    (beginConnection b s).port = s.port ∧ (beginConnection b s).syncs = s.syncs ∧
    (beginConnection b s).ramps = s.ramps ∧ (beginConnection b s).budget = s.budget ∧
    (beginConnection b s).sections = s.sections ∧ (beginConnection b s).tariff = s.tariff ∧
    (beginConnection b s).records = s.records ∧ (beginConnection b s).settings = s.settings ∧
    (beginConnection b s).sent = s.sent ∧ (beginConnection b s).freeCount = s.freeCount ∧
    (beginConnection b s).pending = s.pending ∧ (∀ c, (beginConnection b s).berth c = s.berth c) ∧
    (∀ c, (beginConnection b s).sec c = s.sec c) ∧ (∀ c, (beginConnection b s).unit c = s.unit c) ∧
    (∀ c, (beginConnection b s).reference c = s.reference c) ∧ (∀ c, (beginConnection b s).sync c = s.sync c) ∧
    (∀ c, (beginConnection b s).ramp c = s.ramp c) := by
  simp [beginConnection]

/-- What `addEnergy` leaves alone. -/
@[simp] theorem addEnergy_frame (a n : Nat) (s : State) :
    (addEnergy a n s).2.now = s.now ∧ (addEnergy a n s).2.resetHeld = s.resetHeld ∧
    (addEnergy a n s).2.links = s.links ∧ (addEnergy a n s).2.berths = s.berths ∧
    (addEnergy a n s).2.units = s.units ∧ (addEnergy a n s).2.pool = s.pool ∧
    (addEnergy a n s).2.references = s.references ∧ (addEnergy a n s).2.capture = s.capture ∧
    (addEnergy a n s).2.port = s.port ∧ (addEnergy a n s).2.syncs = s.syncs ∧
    (addEnergy a n s).2.ramps = s.ramps ∧ (addEnergy a n s).2.budget = s.budget ∧
    (addEnergy a n s).2.sections = s.sections ∧ (addEnergy a n s).2.meters = s.meters ∧
    (addEnergy a n s).2.tariff = s.tariff ∧ (addEnergy a n s).2.records = s.records ∧
    (addEnergy a n s).2.settings = s.settings ∧ (addEnergy a n s).2.sent = s.sent ∧
    (addEnergy a n s).2.pending = s.pending ∧ (∀ c, (addEnergy a n s).2.berth c = s.berth c) ∧
    (∀ c, (addEnergy a n s).2.sec c = s.sec c) ∧ (∀ c, (addEnergy a n s).2.unit c = s.unit c) ∧
    (∀ c, (addEnergy a n s).2.reference c = s.reference c) ∧ (∀ c, (addEnergy a n s).2.sync c = s.sync c) ∧
    (∀ c, (addEnergy a n s).2.ramp c = s.ramp c) ∧ (∀ c, (addEnergy a n s).2.meter c = s.meter c) := by
  unfold addEnergy; split <;> simp [State.berth, State.sec, State.unit, State.reference, State.sync, State.ramp, State.meter]

theorem accumulate_eq (b : Berth) (power : BitVec 32) (s : State) :
    accumulate b power s =
      if 0 < power.toInt then
        ((addEnergy (s.meter b).delivered power.toInt.toNat s).2).modMeter b fun m =>
          { m with delivered := (addEnergy (s.meter b).delivered power.toInt.toNat s).1 }
      else if power.toInt < 0 then
        ((addEnergy (s.meter b).reverse power.toInt.natAbs s).2).modMeter b fun m =>
          { m with reverse := (addEnergy (s.meter b).reverse power.toInt.natAbs s).1 }
      else s := rfl

/-- What `accumulate` leaves alone. -/
@[simp] theorem accumulate_frame (b : Berth) (power : BitVec 32) (s : State) :
    (accumulate b power s).now = s.now ∧ (accumulate b power s).resetHeld = s.resetHeld ∧
    (accumulate b power s).links = s.links ∧ (accumulate b power s).berths = s.berths ∧
    (accumulate b power s).units = s.units ∧ (accumulate b power s).pool = s.pool ∧
    (accumulate b power s).references = s.references ∧ (accumulate b power s).capture = s.capture ∧
    (accumulate b power s).port = s.port ∧ (accumulate b power s).syncs = s.syncs ∧
    (accumulate b power s).ramps = s.ramps ∧ (accumulate b power s).budget = s.budget ∧
    (accumulate b power s).sections = s.sections ∧ (accumulate b power s).tariff = s.tariff ∧
    (accumulate b power s).records = s.records ∧ (accumulate b power s).settings = s.settings ∧
    (accumulate b power s).sent = s.sent ∧ (accumulate b power s).pending = s.pending ∧
    (∀ c, (accumulate b power s).berth c = s.berth c) ∧ (∀ c, (accumulate b power s).sec c = s.sec c) ∧
    (∀ c, (accumulate b power s).unit c = s.unit c) ∧
    (∀ c, (accumulate b power s).reference c = s.reference c) ∧
    (∀ c, (accumulate b power s).sync c = s.sync c) ∧ (∀ c, (accumulate b power s).ramp c = s.ramp c) := by
  rw [accumulate_eq]; (repeat' split) <;> simp

/-- What `markInterval` leaves alone. -/
@[simp] theorem markInterval_frame (b : Berth) (f : Marks → Marks) (s : State) :
    (markInterval b f s).now = s.now ∧ (markInterval b f s).resetHeld = s.resetHeld ∧
    (markInterval b f s).links = s.links ∧ (markInterval b f s).berths = s.berths ∧
    (markInterval b f s).units = s.units ∧ (markInterval b f s).pool = s.pool ∧
    (markInterval b f s).references = s.references ∧ (markInterval b f s).capture = s.capture ∧
    (markInterval b f s).port = s.port ∧ (markInterval b f s).syncs = s.syncs ∧
    (markInterval b f s).ramps = s.ramps ∧ (markInterval b f s).budget = s.budget ∧
    (markInterval b f s).sections = s.sections ∧ (markInterval b f s).tariff = s.tariff ∧
    (markInterval b f s).records = s.records ∧ (markInterval b f s).settings = s.settings ∧
    (markInterval b f s).sent = s.sent ∧ (markInterval b f s).freeCount = s.freeCount ∧
    (markInterval b f s).pending = s.pending ∧ (∀ c, (markInterval b f s).berth c = s.berth c) ∧
    (∀ c, (markInterval b f s).sec c = s.sec c) ∧ (∀ c, (markInterval b f s).unit c = s.unit c) ∧
    (∀ c, (markInterval b f s).reference c = s.reference c) ∧ (∀ c, (markInterval b f s).sync c = s.sync c) ∧
    (∀ c, (markInterval b f s).ramp c = s.ramp c) := by
  simp [markInterval]

/-- What `meterFrame` leaves alone. -/
@[simp] theorem meterFrame_frame (b : Berth) (power : BitVec 32) (s : State) :
    (meterFrame b power s).now = s.now ∧ (meterFrame b power s).resetHeld = s.resetHeld ∧
    (meterFrame b power s).links = s.links ∧ (meterFrame b power s).berths = s.berths ∧
    (meterFrame b power s).units = s.units ∧ (meterFrame b power s).pool = s.pool ∧
    (meterFrame b power s).references = s.references ∧ (meterFrame b power s).capture = s.capture ∧
    (meterFrame b power s).port = s.port ∧ (meterFrame b power s).syncs = s.syncs ∧
    (meterFrame b power s).ramps = s.ramps ∧ (meterFrame b power s).budget = s.budget ∧
    (meterFrame b power s).sections = s.sections ∧ (meterFrame b power s).tariff = s.tariff ∧
    (meterFrame b power s).records = s.records ∧ (meterFrame b power s).settings = s.settings ∧
    (meterFrame b power s).sent = s.sent ∧ (meterFrame b power s).pending = s.pending ∧
    (∀ c, (meterFrame b power s).berth c = s.berth c) ∧ (∀ c, (meterFrame b power s).sec c = s.sec c) ∧
    (∀ c, (meterFrame b power s).unit c = s.unit c) ∧
    (∀ c, (meterFrame b power s).reference c = s.reference c) ∧
    (∀ c, (meterFrame b power s).sync c = s.sync c) ∧ (∀ c, (meterFrame b power s).ramp c = s.ramp c) := by
  unfold meterFrame; (try dsimp only); (repeat' split) <;> simp

/-- What `meterMissing` leaves alone. -/
@[simp] theorem meterMissing_frame (b : Berth) (s : State) :
    (meterMissing b s).now = s.now ∧ (meterMissing b s).resetHeld = s.resetHeld ∧
    (meterMissing b s).links = s.links ∧ (meterMissing b s).berths = s.berths ∧
    (meterMissing b s).units = s.units ∧ (meterMissing b s).pool = s.pool ∧
    (meterMissing b s).references = s.references ∧ (meterMissing b s).capture = s.capture ∧
    (meterMissing b s).port = s.port ∧ (meterMissing b s).syncs = s.syncs ∧ (meterMissing b s).ramps = s.ramps ∧
    (meterMissing b s).budget = s.budget ∧ (meterMissing b s).sections = s.sections ∧
    (meterMissing b s).tariff = s.tariff ∧ (meterMissing b s).records = s.records ∧
    (meterMissing b s).settings = s.settings ∧ (meterMissing b s).sent = s.sent ∧
    (meterMissing b s).pending = s.pending ∧ (∀ c, (meterMissing b s).berth c = s.berth c) ∧
    (∀ c, (meterMissing b s).sec c = s.sec c) ∧ (∀ c, (meterMissing b s).unit c = s.unit c) ∧
    (∀ c, (meterMissing b s).reference c = s.reference c) ∧ (∀ c, (meterMissing b s).sync c = s.sync c) ∧
    (∀ c, (meterMissing b s).ramp c = s.ramp c) := by
  unfold meterMissing; (try dsimp only); (repeat' split) <;> simp

/-- What `closeInterval` leaves alone. -/
@[simp] theorem closeInterval_frame (b : Berth) (r : IntervalRecord) (s : State) :
    (closeInterval b r s).now = s.now ∧ (closeInterval b r s).resetHeld = s.resetHeld ∧
    (closeInterval b r s).links = s.links ∧ (closeInterval b r s).berths = s.berths ∧
    (closeInterval b r s).units = s.units ∧ (closeInterval b r s).pool = s.pool ∧
    (closeInterval b r s).references = s.references ∧ (closeInterval b r s).capture = s.capture ∧
    (closeInterval b r s).port = s.port ∧ (closeInterval b r s).syncs = s.syncs ∧
    (closeInterval b r s).ramps = s.ramps ∧ (closeInterval b r s).budget = s.budget ∧
    (closeInterval b r s).sections = s.sections ∧ (closeInterval b r s).tariff = s.tariff ∧
    (closeInterval b r s).records = s.records ∧ (closeInterval b r s).settings = s.settings ∧
    (closeInterval b r s).sent = s.sent ∧ (closeInterval b r s).freeCount = s.freeCount ∧
    (closeInterval b r s).pending = s.pending ∧ (∀ c, (closeInterval b r s).berth c = s.berth c) ∧
    (∀ c, (closeInterval b r s).sec c = s.sec c) ∧ (∀ c, (closeInterval b r s).unit c = s.unit c) ∧
    (∀ c, (closeInterval b r s).reference c = s.reference c) ∧ (∀ c, (closeInterval b r s).sync c = s.sync c) ∧
    (∀ c, (closeInterval b r s).ramp c = s.ramp c) := by
  simp [closeInterval]

/-- What `closeIfFree` leaves alone. -/
@[simp] theorem closeIfFree_frame (b : Berth) (s : State) :
    (closeIfFree b s).1.now = s.now ∧ (closeIfFree b s).1.resetHeld = s.resetHeld ∧
    (closeIfFree b s).1.berths = s.berths ∧ (closeIfFree b s).1.units = s.units ∧
    (closeIfFree b s).1.pool = s.pool ∧ (closeIfFree b s).1.references = s.references ∧
    (closeIfFree b s).1.capture = s.capture ∧ (closeIfFree b s).1.port = s.port ∧
    (closeIfFree b s).1.syncs = s.syncs ∧ (closeIfFree b s).1.ramps = s.ramps ∧
    (closeIfFree b s).1.budget = s.budget ∧ (closeIfFree b s).1.sections = s.sections ∧
    (closeIfFree b s).1.tariff = s.tariff ∧ (closeIfFree b s).1.settings = s.settings ∧
    (closeIfFree b s).1.freeCount = s.freeCount ∧ (closeIfFree b s).1.pending = s.pending ∧
    (∀ c, (closeIfFree b s).1.berth c = s.berth c) ∧ (∀ c, (closeIfFree b s).1.sec c = s.sec c) ∧
    (∀ c, (closeIfFree b s).1.unit c = s.unit c) ∧ (∀ c, (closeIfFree b s).1.reference c = s.reference c) ∧
    (∀ c, (closeIfFree b s).1.sync c = s.sync c) ∧ (∀ c, (closeIfFree b s).1.ramp c = s.ramp c) ∧
    (∀ k, ((closeIfFree b s).1.links.get k).up = (s.links.get k).up) := by
  unfold closeIfFree; (try dsimp only); (repeat' split) <;> simp

/-- What `stretchInterval` leaves alone. -/
@[simp] theorem stretchInterval_frame (b : Berth) (s : State) :
    (stretchInterval b s).now = s.now ∧ (stretchInterval b s).resetHeld = s.resetHeld ∧
    (stretchInterval b s).links = s.links ∧ (stretchInterval b s).berths = s.berths ∧
    (stretchInterval b s).units = s.units ∧ (stretchInterval b s).pool = s.pool ∧
    (stretchInterval b s).references = s.references ∧ (stretchInterval b s).capture = s.capture ∧
    (stretchInterval b s).port = s.port ∧ (stretchInterval b s).syncs = s.syncs ∧
    (stretchInterval b s).ramps = s.ramps ∧ (stretchInterval b s).budget = s.budget ∧
    (stretchInterval b s).sections = s.sections ∧ (stretchInterval b s).tariff = s.tariff ∧
    (stretchInterval b s).records = s.records ∧ (stretchInterval b s).settings = s.settings ∧
    (stretchInterval b s).sent = s.sent ∧ (stretchInterval b s).freeCount = s.freeCount ∧
    (stretchInterval b s).pending = s.pending ∧ (∀ c, (stretchInterval b s).berth c = s.berth c) ∧
    (∀ c, (stretchInterval b s).sec c = s.sec c) ∧ (∀ c, (stretchInterval b s).unit c = s.unit c) ∧
    (∀ c, (stretchInterval b s).reference c = s.reference c) ∧ (∀ c, (stretchInterval b s).sync c = s.sync c) ∧
    (∀ c, (stretchInterval b s).ramp c = s.ramp c) := by
  simp [stretchInterval]

/-- What `nextInterval` leaves alone. -/
@[simp] theorem nextInterval_frame (b : Berth) (k : Marks) (s : State) :
    (nextInterval b k s).now = s.now ∧ (nextInterval b k s).resetHeld = s.resetHeld ∧
    (nextInterval b k s).links = s.links ∧ (nextInterval b k s).berths = s.berths ∧
    (nextInterval b k s).units = s.units ∧ (nextInterval b k s).pool = s.pool ∧
    (nextInterval b k s).references = s.references ∧ (nextInterval b k s).capture = s.capture ∧
    (nextInterval b k s).port = s.port ∧ (nextInterval b k s).syncs = s.syncs ∧
    (nextInterval b k s).ramps = s.ramps ∧ (nextInterval b k s).budget = s.budget ∧
    (nextInterval b k s).sections = s.sections ∧ (nextInterval b k s).tariff = s.tariff ∧
    (nextInterval b k s).records = s.records ∧ (nextInterval b k s).settings = s.settings ∧
    (nextInterval b k s).sent = s.sent ∧ (nextInterval b k s).freeCount = s.freeCount ∧
    (nextInterval b k s).pending = s.pending ∧ (∀ c, (nextInterval b k s).berth c = s.berth c) ∧
    (∀ c, (nextInterval b k s).sec c = s.sec c) ∧ (∀ c, (nextInterval b k s).unit c = s.unit c) ∧
    (∀ c, (nextInterval b k s).reference c = s.reference c) ∧ (∀ c, (nextInterval b k s).sync c = s.sync c) ∧
    (∀ c, (nextInterval b k s).ramp c = s.ramp c) := by
  simp [nextInterval]

theorem channelBoundary_eq (b : Berth) (s : State) :
    channelBoundary b s =
      if !(s.meter b).connected then s
      else if (closeIfFree b s).2 then nextInterval b Marks.clear (closeIfFree b s).1
      else stretchInterval b (closeIfFree b s).1 := rfl

/-- What `channelBoundary` leaves alone. -/
@[simp] theorem channelBoundary_frame (b : Berth) (s : State) :
    (channelBoundary b s).now = s.now ∧ (channelBoundary b s).resetHeld = s.resetHeld ∧
    (channelBoundary b s).berths = s.berths ∧ (channelBoundary b s).units = s.units ∧
    (channelBoundary b s).pool = s.pool ∧ (channelBoundary b s).references = s.references ∧
    (channelBoundary b s).capture = s.capture ∧ (channelBoundary b s).port = s.port ∧
    (channelBoundary b s).syncs = s.syncs ∧ (channelBoundary b s).ramps = s.ramps ∧
    (channelBoundary b s).budget = s.budget ∧ (channelBoundary b s).sections = s.sections ∧
    (channelBoundary b s).tariff = s.tariff ∧ (channelBoundary b s).settings = s.settings ∧
    (channelBoundary b s).freeCount = s.freeCount ∧ (channelBoundary b s).pending = s.pending ∧
    (∀ c, (channelBoundary b s).berth c = s.berth c) ∧ (∀ c, (channelBoundary b s).sec c = s.sec c) ∧
    (∀ c, (channelBoundary b s).unit c = s.unit c) ∧ (∀ c, (channelBoundary b s).reference c = s.reference c) ∧
    (∀ c, (channelBoundary b s).sync c = s.sync c) ∧ (∀ c, (channelBoundary b s).ramp c = s.ramp c) ∧
    (∀ k, ((channelBoundary b s).links.get k).up = (s.links.get k).up) := by
  rw [channelBoundary_eq]; (repeat' split) <;> simp

/-- What `closeFinal` leaves alone. -/
@[simp] theorem closeFinal_frame (b : Berth) (t : Bool) (s : State) :
    (closeFinal b t s).now = s.now ∧ (closeFinal b t s).resetHeld = s.resetHeld ∧
    (closeFinal b t s).berths = s.berths ∧ (closeFinal b t s).units = s.units ∧
    (closeFinal b t s).pool = s.pool ∧ (closeFinal b t s).references = s.references ∧
    (closeFinal b t s).capture = s.capture ∧ (closeFinal b t s).port = s.port ∧
    (closeFinal b t s).syncs = s.syncs ∧ (closeFinal b t s).ramps = s.ramps ∧
    (closeFinal b t s).budget = s.budget ∧ (closeFinal b t s).sections = s.sections ∧
    (closeFinal b t s).tariff = s.tariff ∧ (closeFinal b t s).settings = s.settings ∧
    (closeFinal b t s).freeCount = s.freeCount ∧ (closeFinal b t s).pending = s.pending ∧
    (∀ c, (closeFinal b t s).berth c = s.berth c) ∧ (∀ c, (closeFinal b t s).sec c = s.sec c) ∧
    (∀ c, (closeFinal b t s).unit c = s.unit c) ∧ (∀ c, (closeFinal b t s).reference c = s.reference c) ∧
    (∀ c, (closeFinal b t s).sync c = s.sync c) ∧ (∀ c, (closeFinal b t s).ramp c = s.ramp c) ∧
    (∀ k, ((closeFinal b t s).links.get k).up = (s.links.get k).up) := by
  unfold closeFinal; (try dsimp only); (repeat' split) <;> simp

/-- What `endConnection` leaves alone. -/
@[simp] theorem endConnection_frame (b : Berth) (cause : EndCause) (s : State) :
    (endConnection b cause s).now = s.now ∧ (endConnection b cause s).resetHeld = s.resetHeld ∧
    (endConnection b cause s).units = s.units ∧ (endConnection b cause s).pool = s.pool ∧
    (endConnection b cause s).references = s.references ∧ (endConnection b cause s).capture = s.capture ∧
    (endConnection b cause s).port = s.port ∧ (endConnection b cause s).syncs = s.syncs ∧
    (endConnection b cause s).ramps = s.ramps ∧ (endConnection b cause s).budget = s.budget ∧
    (endConnection b cause s).sections = s.sections ∧ (endConnection b cause s).tariff = s.tariff ∧
    (endConnection b cause s).settings = s.settings ∧ (endConnection b cause s).freeCount = s.freeCount ∧
    (endConnection b cause s).pending = s.pending ∧
    (∀ c, ((endConnection b cause s).berth c).inService = (s.berth c).inService) ∧
    (∀ c, ((endConnection b cause s).berth c).stage = (s.berth c).stage) ∧
    (∀ c, ((endConnection b cause s).berth c).holder = (s.berth c).holder) ∧
    (∀ c, ((endConnection b cause s).berth c).pendingSince = (s.berth c).pendingSince) ∧
    (∀ c, ((endConnection b cause s).berth c).agreement = (s.berth c).agreement) ∧
    (∀ c, ((endConnection b cause s).berth c).causes = (s.berth c).causes) ∧
    (∀ c, ((endConnection b cause s).berth c).status = (s.berth c).status) ∧
    (∀ c, ((endConnection b cause s).berth c).moduleCount = (s.berth c).moduleCount) ∧
    (∀ c, ((endConnection b cause s).berth c).linkLost = (s.berth c).linkLost) ∧
    (∀ c, ((endConnection b cause s).berth c).syncHold = (s.berth c).syncHold) ∧
    (∀ c, ((endConnection b cause s).berth c).separationCause = (s.berth c).separationCause) ∧
    (∀ c, ((endConnection b cause s).berth c).stageTimer = (s.berth c).stageTimer) ∧
    (∀ c, ((endConnection b cause s).berth c).qualification = (s.berth c).qualification) ∧
    (∀ c, (endConnection b cause s).sec c = s.sec c) ∧ (∀ c, (endConnection b cause s).unit c = s.unit c) ∧
    (∀ c, (endConnection b cause s).reference c = s.reference c) ∧
    (∀ c, (endConnection b cause s).sync c = s.sync c) ∧ (∀ c, (endConnection b cause s).ramp c = s.ramp c) ∧
    (∀ k, ((endConnection b cause s).links.get k).up = (s.links.get k).up) := by
  unfold endConnection; (try dsimp only); (repeat' split) <;> simp

/-- What `swapTables` leaves alone. -/
@[simp] theorem swapTables_frame (s : State) :
    (swapTables s).now = s.now ∧ (swapTables s).resetHeld = s.resetHeld ∧ (swapTables s).berths = s.berths ∧
    (swapTables s).units = s.units ∧ (swapTables s).pool = s.pool ∧ (swapTables s).references = s.references ∧
    (swapTables s).capture = s.capture ∧ (swapTables s).port = s.port ∧ (swapTables s).syncs = s.syncs ∧
    (swapTables s).ramps = s.ramps ∧ (swapTables s).budget = s.budget ∧ (swapTables s).sections = s.sections ∧
    (swapTables s).meters = s.meters ∧ (swapTables s).records = s.records ∧
    (swapTables s).settings = s.settings ∧ (swapTables s).freeCount = s.freeCount ∧
    (swapTables s).pending = s.pending ∧ (∀ c, (swapTables s).berth c = s.berth c) ∧
    (∀ c, (swapTables s).sec c = s.sec c) ∧ (∀ c, (swapTables s).unit c = s.unit c) ∧
    (∀ c, (swapTables s).reference c = s.reference c) ∧ (∀ c, (swapTables s).sync c = s.sync c) ∧
    (∀ c, (swapTables s).ramp c = s.ramp c) ∧ (∀ c, (swapTables s).meter c = s.meter c) ∧
    (∀ k, ((swapTables s).links.get k).up = (s.links.get k).up) := by
  unfold swapTables; split <;> simp [State.berth, State.sec, State.unit, State.reference, State.sync, State.ramp, State.meter]

/-- The second that passes at every channel (R151). -/
def tickIntervals (s : State) : State :=
  allBerths.foldl
    (fun (s : State) b => s.modMeter b fun m =>
      { m with interval := m.interval.map fun i => { i with elapsed := i.elapsed + 1 } }) s

/-- What `tickIntervals` leaves alone. -/
@[simp] theorem tickIntervals_frame (s : State) :
    (tickIntervals s).now = s.now ∧ (tickIntervals s).resetHeld = s.resetHeld ∧
    (tickIntervals s).links = s.links ∧ (tickIntervals s).berths = s.berths ∧
    (tickIntervals s).units = s.units ∧ (tickIntervals s).pool = s.pool ∧
    (tickIntervals s).references = s.references ∧ (tickIntervals s).capture = s.capture ∧
    (tickIntervals s).port = s.port ∧ (tickIntervals s).syncs = s.syncs ∧ (tickIntervals s).ramps = s.ramps ∧
    (tickIntervals s).budget = s.budget ∧ (tickIntervals s).sections = s.sections ∧
    (tickIntervals s).tariff = s.tariff ∧ (tickIntervals s).records = s.records ∧
    (tickIntervals s).settings = s.settings ∧ (tickIntervals s).sent = s.sent ∧
    (tickIntervals s).freeCount = s.freeCount ∧ (tickIntervals s).pending = s.pending ∧
    (∀ c, (tickIntervals s).berth c = s.berth c) ∧ (∀ c, (tickIntervals s).sec c = s.sec c) ∧
    (∀ c, (tickIntervals s).unit c = s.unit c) ∧ (∀ c, (tickIntervals s).reference c = s.reference c) ∧
    (∀ c, (tickIntervals s).sync c = s.sync c) ∧ (∀ c, (tickIntervals s).ramp c = s.ramp c) := by
  unfold tickIntervals
  exact ⟨foldl_keeps State.now _ (by intros; simp) _ _,
    foldl_keeps State.resetHeld _ (by intros; simp) _ _,
    foldl_keeps State.links _ (by intros; simp) _ _,
    foldl_keeps State.berths _ (by intros; simp) _ _,
    foldl_keeps State.units _ (by intros; simp) _ _,
    foldl_keeps State.pool _ (by intros; simp) _ _,
    foldl_keeps State.references _ (by intros; simp) _ _,
    foldl_keeps State.capture _ (by intros; simp) _ _,
    foldl_keeps State.port _ (by intros; simp) _ _,
    foldl_keeps State.syncs _ (by intros; simp) _ _,
    foldl_keeps State.ramps _ (by intros; simp) _ _,
    foldl_keeps State.budget _ (by intros; simp) _ _,
    foldl_keeps State.sections _ (by intros; simp) _ _,
    foldl_keeps State.tariff _ (by intros; simp) _ _,
    foldl_keeps State.records _ (by intros; simp) _ _,
    foldl_keeps State.settings _ (by intros; simp) _ _,
    foldl_keeps State.sent _ (by intros; simp) _ _,
    foldl_keeps State.freeCount _ (by intros; simp) _ _,
    foldl_keeps State.pending _ (by intros; simp) _ _,
    fun c => foldl_keeps (fun s => s.berth c) _ (by intros; simp) _ _,
    fun c => foldl_keeps (fun s => s.sec c) _ (by intros; simp) _ _,
    fun c => foldl_keeps (fun s => s.unit c) _ (by intros; simp) _ _,
    fun c => foldl_keeps (fun s => s.reference c) _ (by intros; simp) _ _,
    fun c => foldl_keeps (fun s => s.sync c) _ (by intros; simp) _ _,
    fun c => foldl_keeps (fun s => s.ramp c) _ (by intros; simp) _ _⟩

theorem advanceClock_eq (s : State) :
    advanceClock s =
      let s := tickIntervals { s with tariff := { s.tariff with clock := s.tariff.clock + 1#32 } }
      if s.tariff.clock.toNat % s.settings.intervalLength = 0 then
        serveBerths (swapTables s).isConnected channelBoundary (swapTables s)
      else s := rfl

/-- The channels' boundaries. -/
def boundaries (s : State) : State := serveBerths s.isConnected channelBoundary s

/-- What `boundaries` leaves alone. -/
@[simp] theorem boundaries_frame (s : State) :
    (boundaries s).now = s.now ∧ (boundaries s).resetHeld = s.resetHeld ∧ (boundaries s).berths = s.berths ∧
    (boundaries s).units = s.units ∧ (boundaries s).pool = s.pool ∧ (boundaries s).references = s.references ∧
    (boundaries s).capture = s.capture ∧ (boundaries s).port = s.port ∧ (boundaries s).syncs = s.syncs ∧
    (boundaries s).ramps = s.ramps ∧ (boundaries s).budget = s.budget ∧ (boundaries s).sections = s.sections ∧
    (boundaries s).tariff = s.tariff ∧ (boundaries s).settings = s.settings ∧
    (boundaries s).pending = s.pending ∧ (∀ c, (boundaries s).berth c = s.berth c) ∧
    (∀ c, (boundaries s).sec c = s.sec c) ∧ (∀ c, (boundaries s).unit c = s.unit c) ∧
    (∀ c, (boundaries s).reference c = s.reference c) ∧ (∀ c, (boundaries s).sync c = s.sync c) ∧
    (∀ c, (boundaries s).ramp c = s.ramp c) ∧ (∀ k, ((boundaries s).links.get k).up = (s.links.get k).up) := by
  unfold boundaries
  exact ⟨serveBerths_keeps State.now _ _ (by intros; simp) (by intros; rfl) _,
    serveBerths_keeps State.resetHeld _ _ (by intros; simp) (by intros; rfl) _,
    serveBerths_keeps State.berths _ _ (by intros; simp) (by intros; rfl) _,
    serveBerths_keeps State.units _ _ (by intros; simp) (by intros; rfl) _,
    serveBerths_keeps State.pool _ _ (by intros; simp) (by intros; rfl) _,
    serveBerths_keeps State.references _ _ (by intros; simp) (by intros; rfl) _,
    serveBerths_keeps State.capture _ _ (by intros; simp) (by intros; rfl) _,
    serveBerths_keeps State.port _ _ (by intros; simp) (by intros; rfl) _,
    serveBerths_keeps State.syncs _ _ (by intros; simp) (by intros; rfl) _,
    serveBerths_keeps State.ramps _ _ (by intros; simp) (by intros; rfl) _,
    serveBerths_keeps State.budget _ _ (by intros; simp) (by intros; rfl) _,
    serveBerths_keeps State.sections _ _ (by intros; simp) (by intros; rfl) _,
    serveBerths_keeps State.tariff _ _ (by intros; simp) (by intros; rfl) _,
    serveBerths_keeps State.settings _ _ (by intros; simp) (by intros; rfl) _,
    serveBerths_keeps State.pending _ _ (by intros; simp) (by intros; rfl) _,
    fun c => serveBerths_keeps (fun s => s.berth c) _ _ (by intros; simp) (by intros; rfl) _,
    fun c => serveBerths_keeps (fun s => s.sec c) _ _ (by intros; simp) (by intros; rfl) _,
    fun c => serveBerths_keeps (fun s => s.unit c) _ _ (by intros; simp) (by intros; rfl) _,
    fun c => serveBerths_keeps (fun s => s.reference c) _ _ (by intros; simp) (by intros; rfl) _,
    fun c => serveBerths_keeps (fun s => s.sync c) _ _ (by intros; simp) (by intros; rfl) _,
    fun c => serveBerths_keeps (fun s => s.ramp c) _ _ (by intros; simp) (by intros; rfl) _,
    fun k => serveBerths_keeps (fun s => (s.links.get k).up) _ _ (by intros; simp) (by intros; rfl) _⟩

/-- The state with another Tariff Unit. -/
def State.withTariff (s : State) (t : Tariff) : State := { s with tariff := t }

/-- What `State.withTariff` leaves alone. -/
@[simp] theorem withTariff_frame (t : Tariff) (s : State) :
    (s.withTariff t).now = s.now ∧ (s.withTariff t).resetHeld = s.resetHeld ∧ (s.withTariff t).links = s.links ∧
    (s.withTariff t).berths = s.berths ∧ (s.withTariff t).units = s.units ∧ (s.withTariff t).pool = s.pool ∧
    (s.withTariff t).references = s.references ∧ (s.withTariff t).capture = s.capture ∧
    (s.withTariff t).port = s.port ∧ (s.withTariff t).syncs = s.syncs ∧ (s.withTariff t).ramps = s.ramps ∧
    (s.withTariff t).budget = s.budget ∧ (s.withTariff t).sections = s.sections ∧
    (s.withTariff t).meters = s.meters ∧ (s.withTariff t).records = s.records ∧
    (s.withTariff t).settings = s.settings ∧ (s.withTariff t).sent = s.sent ∧
    (s.withTariff t).freeCount = s.freeCount ∧ (s.withTariff t).pending = s.pending ∧
    (∀ c, (s.withTariff t).berth c = s.berth c) ∧ (∀ c, (s.withTariff t).sec c = s.sec c) ∧
    (∀ c, (s.withTariff t).unit c = s.unit c) ∧ (∀ c, (s.withTariff t).reference c = s.reference c) ∧
    (∀ c, (s.withTariff t).sync c = s.sync c) ∧ (∀ c, (s.withTariff t).ramp c = s.ramp c) ∧
    (∀ c, (s.withTariff t).meter c = s.meter c) := by
  refine ⟨rfl, rfl, rfl, rfl, rfl, rfl, rfl, rfl, rfl, rfl, rfl, rfl, rfl, rfl, rfl, rfl, rfl, rfl, rfl, fun _ => rfl, fun _ => rfl, fun _ => rfl, fun _ => rfl, fun _ => rfl, fun _ => rfl, fun _ => rfl⟩

/-- What `advanceClock` leaves alone. -/
@[simp] theorem advanceClock_frame (s : State) :
    (advanceClock s).now = s.now ∧ (advanceClock s).resetHeld = s.resetHeld ∧
    (advanceClock s).berths = s.berths ∧ (advanceClock s).units = s.units ∧ (advanceClock s).pool = s.pool ∧
    (advanceClock s).references = s.references ∧ (advanceClock s).capture = s.capture ∧
    (advanceClock s).port = s.port ∧ (advanceClock s).syncs = s.syncs ∧ (advanceClock s).ramps = s.ramps ∧
    (advanceClock s).budget = s.budget ∧ (advanceClock s).sections = s.sections ∧
    (advanceClock s).settings = s.settings ∧ (advanceClock s).pending = s.pending ∧
    (∀ c, (advanceClock s).berth c = s.berth c) ∧ (∀ c, (advanceClock s).sec c = s.sec c) ∧
    (∀ c, (advanceClock s).unit c = s.unit c) ∧ (∀ c, (advanceClock s).reference c = s.reference c) ∧
    (∀ c, (advanceClock s).sync c = s.sync c) ∧ (∀ c, (advanceClock s).ramp c = s.ramp c) ∧
    (∀ k, ((advanceClock s).links.get k).up = (s.links.get k).up) := by
  have e : advanceClock s =
      let s := tickIntervals (s.withTariff { s.tariff with clock := s.tariff.clock + 1#32 })
      if s.tariff.clock.toNat % s.settings.intervalLength = 0 then boundaries (swapTables s) else s := rfl
  rw [e]; dsimp only; split <;> simp

theorem clockSetClose_eq (b : Berth) (s : State) :
    clockSetClose b s =
      if !(s.meter b).connected then s
      else
        let s := markInterval b (fun k => { k with clockSet := true }) s
        if (closeIfFree b s).2 then (closeIfFree b s).1 else stretchInterval b (closeIfFree b s).1 := rfl

/-- What `clockSetClose` leaves alone. -/
@[simp] theorem clockSetClose_frame (b : Berth) (s : State) :
    (clockSetClose b s).now = s.now ∧ (clockSetClose b s).resetHeld = s.resetHeld ∧
    (clockSetClose b s).berths = s.berths ∧ (clockSetClose b s).units = s.units ∧
    (clockSetClose b s).pool = s.pool ∧ (clockSetClose b s).references = s.references ∧
    (clockSetClose b s).capture = s.capture ∧ (clockSetClose b s).port = s.port ∧
    (clockSetClose b s).syncs = s.syncs ∧ (clockSetClose b s).ramps = s.ramps ∧
    (clockSetClose b s).budget = s.budget ∧ (clockSetClose b s).sections = s.sections ∧
    (clockSetClose b s).tariff = s.tariff ∧ (clockSetClose b s).settings = s.settings ∧
    (clockSetClose b s).freeCount = s.freeCount ∧ (clockSetClose b s).pending = s.pending ∧
    (∀ c, (clockSetClose b s).berth c = s.berth c) ∧ (∀ c, (clockSetClose b s).sec c = s.sec c) ∧
    (∀ c, (clockSetClose b s).unit c = s.unit c) ∧ (∀ c, (clockSetClose b s).reference c = s.reference c) ∧
    (∀ c, (clockSetClose b s).sync c = s.sync c) ∧ (∀ c, (clockSetClose b s).ramp c = s.ramp c) ∧
    (∀ k, ((clockSetClose b s).links.get k).up = (s.links.get k).up) := by
  rw [clockSetClose_eq]; dsimp only; (repeat' split) <;> simp

/-- What `clockSetBegin` leaves alone. -/
@[simp] theorem clockSetBegin_frame (b : Berth) (s : State) :
    (clockSetBegin b s).now = s.now ∧ (clockSetBegin b s).resetHeld = s.resetHeld ∧
    (clockSetBegin b s).links = s.links ∧ (clockSetBegin b s).berths = s.berths ∧
    (clockSetBegin b s).units = s.units ∧ (clockSetBegin b s).pool = s.pool ∧
    (clockSetBegin b s).references = s.references ∧ (clockSetBegin b s).capture = s.capture ∧
    (clockSetBegin b s).port = s.port ∧ (clockSetBegin b s).syncs = s.syncs ∧
    (clockSetBegin b s).ramps = s.ramps ∧ (clockSetBegin b s).budget = s.budget ∧
    (clockSetBegin b s).sections = s.sections ∧ (clockSetBegin b s).tariff = s.tariff ∧
    (clockSetBegin b s).records = s.records ∧ (clockSetBegin b s).settings = s.settings ∧
    (clockSetBegin b s).sent = s.sent ∧ (clockSetBegin b s).freeCount = s.freeCount ∧
    (clockSetBegin b s).pending = s.pending ∧ (∀ c, (clockSetBegin b s).berth c = s.berth c) ∧
    (∀ c, (clockSetBegin b s).sec c = s.sec c) ∧ (∀ c, (clockSetBegin b s).unit c = s.unit c) ∧
    (∀ c, (clockSetBegin b s).reference c = s.reference c) ∧ (∀ c, (clockSetBegin b s).sync c = s.sync c) ∧
    (∀ c, (clockSetBegin b s).ramp c = s.ramp c) := by
  unfold clockSetBegin; (try dsimp only); (repeat' split) <;> simp

/-- Step 1 of a Set Clock at every channel. -/
def clockSetCloses (s : State) : State := serveBerths s.isConnected clockSetClose s

/-- What `clockSetCloses` leaves alone. -/
@[simp] theorem clockSetCloses_frame (s : State) :
    (clockSetCloses s).now = s.now ∧ (clockSetCloses s).resetHeld = s.resetHeld ∧
    (clockSetCloses s).berths = s.berths ∧ (clockSetCloses s).units = s.units ∧
    (clockSetCloses s).pool = s.pool ∧ (clockSetCloses s).references = s.references ∧
    (clockSetCloses s).capture = s.capture ∧ (clockSetCloses s).port = s.port ∧
    (clockSetCloses s).syncs = s.syncs ∧ (clockSetCloses s).ramps = s.ramps ∧
    (clockSetCloses s).budget = s.budget ∧ (clockSetCloses s).sections = s.sections ∧
    (clockSetCloses s).tariff = s.tariff ∧ (clockSetCloses s).settings = s.settings ∧
    (clockSetCloses s).pending = s.pending ∧ (∀ c, (clockSetCloses s).berth c = s.berth c) ∧
    (∀ c, (clockSetCloses s).sec c = s.sec c) ∧ (∀ c, (clockSetCloses s).unit c = s.unit c) ∧
    (∀ c, (clockSetCloses s).reference c = s.reference c) ∧ (∀ c, (clockSetCloses s).sync c = s.sync c) ∧
    (∀ c, (clockSetCloses s).ramp c = s.ramp c) ∧
    (∀ k, ((clockSetCloses s).links.get k).up = (s.links.get k).up) := by
  unfold clockSetCloses
  exact ⟨serveBerths_keeps State.now _ _ (by intros; simp) (by intros; rfl) _,
    serveBerths_keeps State.resetHeld _ _ (by intros; simp) (by intros; rfl) _,
    serveBerths_keeps State.berths _ _ (by intros; simp) (by intros; rfl) _,
    serveBerths_keeps State.units _ _ (by intros; simp) (by intros; rfl) _,
    serveBerths_keeps State.pool _ _ (by intros; simp) (by intros; rfl) _,
    serveBerths_keeps State.references _ _ (by intros; simp) (by intros; rfl) _,
    serveBerths_keeps State.capture _ _ (by intros; simp) (by intros; rfl) _,
    serveBerths_keeps State.port _ _ (by intros; simp) (by intros; rfl) _,
    serveBerths_keeps State.syncs _ _ (by intros; simp) (by intros; rfl) _,
    serveBerths_keeps State.ramps _ _ (by intros; simp) (by intros; rfl) _,
    serveBerths_keeps State.budget _ _ (by intros; simp) (by intros; rfl) _,
    serveBerths_keeps State.sections _ _ (by intros; simp) (by intros; rfl) _,
    serveBerths_keeps State.tariff _ _ (by intros; simp) (by intros; rfl) _,
    serveBerths_keeps State.settings _ _ (by intros; simp) (by intros; rfl) _,
    serveBerths_keeps State.pending _ _ (by intros; simp) (by intros; rfl) _,
    fun c => serveBerths_keeps (fun s => s.berth c) _ _ (by intros; simp) (by intros; rfl) _,
    fun c => serveBerths_keeps (fun s => s.sec c) _ _ (by intros; simp) (by intros; rfl) _,
    fun c => serveBerths_keeps (fun s => s.unit c) _ _ (by intros; simp) (by intros; rfl) _,
    fun c => serveBerths_keeps (fun s => s.reference c) _ _ (by intros; simp) (by intros; rfl) _,
    fun c => serveBerths_keeps (fun s => s.sync c) _ _ (by intros; simp) (by intros; rfl) _,
    fun c => serveBerths_keeps (fun s => s.ramp c) _ _ (by intros; simp) (by intros; rfl) _,
    fun k => serveBerths_keeps (fun s => (s.links.get k).up) _ _ (by intros; simp) (by intros; rfl) _⟩

/-- Step 4 of a Set Clock at every channel. -/
def clockSetBegins (s : State) : State := allBerths.foldl (fun s b => clockSetBegin b s) s

/-- What `clockSetBegins` leaves alone. -/
@[simp] theorem clockSetBegins_frame (s : State) :
    (clockSetBegins s).now = s.now ∧ (clockSetBegins s).resetHeld = s.resetHeld ∧
    (clockSetBegins s).links = s.links ∧ (clockSetBegins s).berths = s.berths ∧
    (clockSetBegins s).units = s.units ∧ (clockSetBegins s).pool = s.pool ∧
    (clockSetBegins s).references = s.references ∧ (clockSetBegins s).capture = s.capture ∧
    (clockSetBegins s).port = s.port ∧ (clockSetBegins s).syncs = s.syncs ∧ (clockSetBegins s).ramps = s.ramps ∧
    (clockSetBegins s).budget = s.budget ∧ (clockSetBegins s).sections = s.sections ∧
    (clockSetBegins s).tariff = s.tariff ∧ (clockSetBegins s).records = s.records ∧
    (clockSetBegins s).settings = s.settings ∧ (clockSetBegins s).sent = s.sent ∧
    (clockSetBegins s).freeCount = s.freeCount ∧ (clockSetBegins s).pending = s.pending ∧
    (∀ c, (clockSetBegins s).berth c = s.berth c) ∧ (∀ c, (clockSetBegins s).sec c = s.sec c) ∧
    (∀ c, (clockSetBegins s).unit c = s.unit c) ∧ (∀ c, (clockSetBegins s).reference c = s.reference c) ∧
    (∀ c, (clockSetBegins s).sync c = s.sync c) ∧ (∀ c, (clockSetBegins s).ramp c = s.ramp c) := by
  unfold clockSetBegins
  exact ⟨foldl_keeps State.now _ (by intros; simp) _ _,
    foldl_keeps State.resetHeld _ (by intros; simp) _ _,
    foldl_keeps State.links _ (by intros; simp) _ _,
    foldl_keeps State.berths _ (by intros; simp) _ _,
    foldl_keeps State.units _ (by intros; simp) _ _,
    foldl_keeps State.pool _ (by intros; simp) _ _,
    foldl_keeps State.references _ (by intros; simp) _ _,
    foldl_keeps State.capture _ (by intros; simp) _ _,
    foldl_keeps State.port _ (by intros; simp) _ _,
    foldl_keeps State.syncs _ (by intros; simp) _ _,
    foldl_keeps State.ramps _ (by intros; simp) _ _,
    foldl_keeps State.budget _ (by intros; simp) _ _,
    foldl_keeps State.sections _ (by intros; simp) _ _,
    foldl_keeps State.tariff _ (by intros; simp) _ _,
    foldl_keeps State.records _ (by intros; simp) _ _,
    foldl_keeps State.settings _ (by intros; simp) _ _,
    foldl_keeps State.sent _ (by intros; simp) _ _,
    foldl_keeps State.freeCount _ (by intros; simp) _ _,
    foldl_keeps State.pending _ (by intros; simp) _ _,
    fun c => foldl_keeps (fun s => s.berth c) _ (by intros; simp) _ _,
    fun c => foldl_keeps (fun s => s.sec c) _ (by intros; simp) _ _,
    fun c => foldl_keeps (fun s => s.unit c) _ (by intros; simp) _ _,
    fun c => foldl_keeps (fun s => s.reference c) _ (by intros; simp) _ _,
    fun c => foldl_keeps (fun s => s.sync c) _ (by intros; simp) _ _,
    fun c => foldl_keeps (fun s => s.ramp c) _ (by intros; simp) _ _⟩

theorem setHarbourClock_eq (value : BitVec 32) (s : State) :
    setHarbourClock value s =
      clockSetBegins (swapTables
        ((clockSetCloses s).withTariff
          { (clockSetCloses s).tariff with
            clock := value, notSet := false, nextAdvance := (clockSetCloses s).inSeconds 1 })) := rfl

/-- What `setHarbourClock` leaves alone. -/
@[simp] theorem setHarbourClock_frame (v : BitVec 32) (s : State) :
    (setHarbourClock v s).now = s.now ∧ (setHarbourClock v s).resetHeld = s.resetHeld ∧
    (setHarbourClock v s).berths = s.berths ∧ (setHarbourClock v s).units = s.units ∧
    (setHarbourClock v s).pool = s.pool ∧ (setHarbourClock v s).references = s.references ∧
    (setHarbourClock v s).capture = s.capture ∧ (setHarbourClock v s).port = s.port ∧
    (setHarbourClock v s).syncs = s.syncs ∧ (setHarbourClock v s).ramps = s.ramps ∧
    (setHarbourClock v s).budget = s.budget ∧ (setHarbourClock v s).sections = s.sections ∧
    (setHarbourClock v s).settings = s.settings ∧ (setHarbourClock v s).pending = s.pending ∧
    (∀ c, (setHarbourClock v s).berth c = s.berth c) ∧ (∀ c, (setHarbourClock v s).sec c = s.sec c) ∧
    (∀ c, (setHarbourClock v s).unit c = s.unit c) ∧ (∀ c, (setHarbourClock v s).reference c = s.reference c) ∧
    (∀ c, (setHarbourClock v s).sync c = s.sync c) ∧ (∀ c, (setHarbourClock v s).ramp c = s.ramp c) ∧
    (∀ k, ((setHarbourClock v s).links.get k).up = (s.links.get k).up) := by
  rw [setHarbourClock_eq]; simp

end Sys2Proof.Machine
end

