-- ==== Sys2Proof/Laws/Modules.lean ====
section
/-! SUPPORT. What the operations of the Ramp Units, the Import Budget and the Module Pool Manager leave alone: one lemma
per operation. -/

namespace Sys2Proof.Machine

/-- What `writeShares` leaves alone. -/
@[simp] theorem writeShares_frame (v n place : Nat) (l : List ModuleId) (s : State) :
    (writeShares v n place l s).now = s.now ∧ (writeShares v n place l s).resetHeld = s.resetHeld ∧
    (writeShares v n place l s).links = s.links ∧ (writeShares v n place l s).berths = s.berths ∧
    (writeShares v n place l s).units = s.units ∧ (writeShares v n place l s).references = s.references ∧
    (writeShares v n place l s).capture = s.capture ∧ (writeShares v n place l s).port = s.port ∧
    (writeShares v n place l s).syncs = s.syncs ∧ (writeShares v n place l s).ramps = s.ramps ∧
    (writeShares v n place l s).budget = s.budget ∧ (writeShares v n place l s).sections = s.sections ∧
    (writeShares v n place l s).meters = s.meters ∧ (writeShares v n place l s).tariff = s.tariff ∧
    (writeShares v n place l s).records = s.records ∧ (writeShares v n place l s).settings = s.settings ∧
    (writeShares v n place l s).freeCount = s.freeCount ∧ (writeShares v n place l s).pending = s.pending ∧
    (∀ c, (writeShares v n place l s).berth c = s.berth c) ∧
    (∀ c, (writeShares v n place l s).sec c = s.sec c) ∧ (∀ c, (writeShares v n place l s).unit c = s.unit c) ∧
    (∀ c, (writeShares v n place l s).reference c = s.reference c) ∧
    (∀ c, (writeShares v n place l s).sync c = s.sync c) ∧
    (∀ c, (writeShares v n place l s).ramp c = s.ramp c) ∧
    (∀ c, (writeShares v n place l s).meter c = s.meter c) := by
  induction l generalizing s place with
  | nil => simp [writeShares]
  | cons m rest ih =>
    unfold writeShares
    dsimp only
    split <;> simp [ih]

/-- What `recomputeShares` leaves alone. -/
@[simp] theorem recomputeShares_frame (b : Berth) (s : State) :
    (recomputeShares b s).now = s.now ∧ (recomputeShares b s).resetHeld = s.resetHeld ∧
    (recomputeShares b s).links = s.links ∧ (recomputeShares b s).berths = s.berths ∧
    (recomputeShares b s).units = s.units ∧ (recomputeShares b s).references = s.references ∧
    (recomputeShares b s).capture = s.capture ∧ (recomputeShares b s).port = s.port ∧
    (recomputeShares b s).syncs = s.syncs ∧ (recomputeShares b s).ramps = s.ramps ∧
    (recomputeShares b s).budget = s.budget ∧ (recomputeShares b s).sections = s.sections ∧
    (recomputeShares b s).meters = s.meters ∧ (recomputeShares b s).tariff = s.tariff ∧
    (recomputeShares b s).records = s.records ∧ (recomputeShares b s).settings = s.settings ∧
    (recomputeShares b s).freeCount = s.freeCount ∧ (recomputeShares b s).pending = s.pending ∧
    (∀ c, (recomputeShares b s).berth c = s.berth c) ∧ (∀ c, (recomputeShares b s).sec c = s.sec c) ∧
    (∀ c, (recomputeShares b s).unit c = s.unit c) ∧ (∀ c, (recomputeShares b s).reference c = s.reference c) ∧
    (∀ c, (recomputeShares b s).sync c = s.sync c) ∧ (∀ c, (recomputeShares b s).ramp c = s.ramp c) ∧
    (∀ c, (recomputeShares b s).meter c = s.meter c) := by
  simp [recomputeShares]

/-- What `retarget` leaves alone. -/
@[simp] theorem retarget_frame (b : Berth) (s : State) :
    (retarget b s).now = s.now ∧ (retarget b s).resetHeld = s.resetHeld ∧ (retarget b s).links = s.links ∧
    (retarget b s).berths = s.berths ∧ (retarget b s).units = s.units ∧ (retarget b s).pool = s.pool ∧
    (retarget b s).references = s.references ∧ (retarget b s).capture = s.capture ∧
    (retarget b s).port = s.port ∧ (retarget b s).syncs = s.syncs ∧ (retarget b s).budget = s.budget ∧
    (retarget b s).sections = s.sections ∧ (retarget b s).meters = s.meters ∧ (retarget b s).tariff = s.tariff ∧
    (retarget b s).records = s.records ∧ (retarget b s).settings = s.settings ∧ (retarget b s).sent = s.sent ∧
    (retarget b s).freeCount = s.freeCount ∧ (retarget b s).pending = s.pending ∧
    (∀ c, (retarget b s).berth c = s.berth c) ∧ (∀ c, (retarget b s).sec c = s.sec c) ∧
    (∀ c, (retarget b s).unit c = s.unit c) ∧ (∀ c, (retarget b s).reference c = s.reference c) ∧
    (∀ c, (retarget b s).sync c = s.sync c) ∧ (∀ c, (retarget b s).meter c = s.meter c) := by
  unfold retarget; (try dsimp only); (repeat' split) <;> simp

theorem offer_succ (fuel : Nat) (s : State) (e : WaitEntry) (rest : List WaitEntry) (h : s.budget.waiting = e :: rest) :
    offer (fuel + 1) s =
      let held := s.reservation e.berth
      let given := min (e.wanted - held) s.headroom.toNat
      let s := if given = 0 then s else retarget e.berth (s.setReservation e.berth (held + given))
      if e.wanted ≤ held + given then offer fuel (s.setWaiting rest) else s := by
  rw [offer.eq_def (fuel + 1) s]
  simp only [h]

/-- What `offer` leaves alone. -/
@[simp] theorem offer_frame (fuel : Nat) (s : State) :
    (offer fuel s).now = s.now ∧ (offer fuel s).resetHeld = s.resetHeld ∧ (offer fuel s).links = s.links ∧
    (offer fuel s).berths = s.berths ∧ (offer fuel s).units = s.units ∧ (offer fuel s).pool = s.pool ∧
    (offer fuel s).references = s.references ∧ (offer fuel s).capture = s.capture ∧
    (offer fuel s).port = s.port ∧ (offer fuel s).syncs = s.syncs ∧ (offer fuel s).sections = s.sections ∧
    (offer fuel s).meters = s.meters ∧ (offer fuel s).tariff = s.tariff ∧ (offer fuel s).records = s.records ∧
    (offer fuel s).settings = s.settings ∧ (offer fuel s).sent = s.sent ∧
    (offer fuel s).freeCount = s.freeCount ∧ (offer fuel s).pending = s.pending ∧
    (∀ c, (offer fuel s).berth c = s.berth c) ∧ (∀ c, (offer fuel s).sec c = s.sec c) ∧
    (∀ c, (offer fuel s).unit c = s.unit c) ∧ (∀ c, (offer fuel s).reference c = s.reference c) ∧
    (∀ c, (offer fuel s).sync c = s.sync c) ∧ (∀ c, (offer fuel s).meter c = s.meter c) := by
  induction fuel generalizing s with
  | zero => simp [offer]
  | succ fuel ih =>
    cases h : s.budget.waiting with
    | nil => simp [offer, h]
    | cons e rest =>
      rw [offer_succ fuel s e rest h]
      dsimp only
      (repeat' split) <;> simp [ih]

/-- What `offerHeadroom` leaves alone. -/
@[simp] theorem offerHeadroom_frame (s : State) :
    (offerHeadroom s).now = s.now ∧ (offerHeadroom s).resetHeld = s.resetHeld ∧
    (offerHeadroom s).links = s.links ∧ (offerHeadroom s).berths = s.berths ∧
    (offerHeadroom s).units = s.units ∧ (offerHeadroom s).pool = s.pool ∧
    (offerHeadroom s).references = s.references ∧ (offerHeadroom s).capture = s.capture ∧
    (offerHeadroom s).port = s.port ∧ (offerHeadroom s).syncs = s.syncs ∧
    (offerHeadroom s).sections = s.sections ∧ (offerHeadroom s).meters = s.meters ∧
    (offerHeadroom s).tariff = s.tariff ∧ (offerHeadroom s).records = s.records ∧
    (offerHeadroom s).settings = s.settings ∧ (offerHeadroom s).sent = s.sent ∧
    (offerHeadroom s).freeCount = s.freeCount ∧ (offerHeadroom s).pending = s.pending ∧
    (∀ c, (offerHeadroom s).berth c = s.berth c) ∧ (∀ c, (offerHeadroom s).sec c = s.sec c) ∧
    (∀ c, (offerHeadroom s).unit c = s.unit c) ∧ (∀ c, (offerHeadroom s).reference c = s.reference c) ∧
    (∀ c, (offerHeadroom s).sync c = s.sync c) ∧ (∀ c, (offerHeadroom s).meter c = s.meter c) := by
  simp [offerHeadroom]

theorem headroom_toNat (s : State) :
    s.headroom.toNat =
      s.settings.importLimit -
        (s.budget.reservations.a + s.budget.reservations.b + s.budget.reservations.c) := by
  simp only [State.headroom, State.reserved]; omega

theorem PerBerth.set_self {α : Type} (p : PerBerth α) (b : Berth) : p.set b (p.get b) = p := by
  cases b <;> rfl

/-- What `offer` does to the Import Budget: with turns enough, what `served` says (R115). -/
theorem offer_served (fuel : Nat) (s : State) (h : s.budget.waiting.length ≤ fuel) :
    ((offer fuel s).budget.reservations, (offer fuel s).budget.waiting) =
      served s.settings.importLimit s.budget.reservations s.budget.waiting := by
  induction fuel generalizing s with
  | zero =>
    have hw : s.budget.waiting = [] := List.length_eq_zero_iff.mp (Nat.le_zero.mp h)
    simp [offer, hw, served]
  | succ fuel ih =>
    cases hw : s.budget.waiting with
    | nil => simp [offer, hw, served]
    | cons e rest =>
      have hl : rest.length ≤ fuel := by simpa [hw] using h
      obtain ⟨u, hu, hb, hs⟩ : ∃ u,
          offer (fuel + 1) s =
            (if e.wanted ≤ s.reservation e.berth + min (e.wanted - s.reservation e.berth) s.headroom.toNat then
              offer fuel (u.setWaiting rest) else u) ∧
          u.budget = { s.budget with
            reservations := s.budget.reservations.set e.berth
              (s.reservation e.berth + min (e.wanted - s.reservation e.berth) s.headroom.toNat) } ∧
          u.settings = s.settings := by
        refine ⟨_, offer_succ fuel s e rest hw, ?_, ?_⟩
        · split
          · next hz => rw [hz, Nat.add_zero, State.reservation, PerBerth.set_self]
          · simp [State.setReservation]
        · split <;> simp [State.setReservation]
      rw [hu, served]
      rw [← headroom_toNat, ← State.reservation]
      split
      · have := ih (u.setWaiting rest) (by simpa [State.setWaiting] using hl)
        rw [this]
        simp only [State.setWaiting, hs, hb]
      · rw [hb, hw]

/-- What `offerHeadroom` does to the Import Budget (R115). -/
theorem offerHeadroom_served (s : State) :
    ((offerHeadroom s).budget.reservations, (offerHeadroom s).budget.waiting) =
      served s.settings.importLimit s.budget.reservations s.budget.waiting :=
  offer_served _ s (Nat.le_refl _)

/-- What `dropWaiting` does to the Import Budget: what `withoutEntry` says (R116). -/
theorem dropWaiting_withoutEntry (b : Berth) (s : State) :
    ((dropWaiting b s).budget.reservations, (dropWaiting b s).budget.waiting) = withoutEntry b s := by
  unfold dropWaiting withoutEntry
  cases h : s.waitEntry b with
  | none => simp
  | some e => simp only [Option.isSome_some, if_true, reduceCtorEq, if_false]; rw [offerHeadroom_served]; rfl

/-- A waiting list whose entries of a berth fall with its need, entry by entry (R114). -/
theorem lowerEntries_flatMap (b : Berth) (need kept : Nat) (l : List WaitEntry) :
    lowerEntries b need kept l =
      l.flatMap fun e =>
        if e.berth = b then if min e.wanted need ≤ kept then [] else [{ e with wanted := min e.wanted need }] else [e] := by
  unfold lowerEntries
  induction l with
  | nil => rfl
  | cons e rest ih =>
    rw [List.map_cons, List.filter_cons, ih, List.flatMap_cons]
    by_cases hb : e.berth = b
    · by_cases hn : need < e.wanted
      · have h : min e.wanted need = need := by omega
        by_cases hk : need ≤ kept <;> simp [hb, hn, h, hk]
      · have h : min e.wanted need = e.wanted := by omega
        by_cases hk : e.wanted ≤ kept
        · simp [hb, hn, h, hk]
        · simp [hb, hn, h, hk]; cases e; simp_all
    · simp [hb]

/-- What `lowerReservation` does to the Import Budget outside SHORE_CARRYING: what `lowersTo` says of the need (R114). -/
theorem lowerReservation_lowersTo (b : Berth) (s : State) (h : (s.berth b).stage ≠ .shoreCarrying) :
    ((lowerReservation b s).budget.reservations, (lowerReservation b s).budget.waiting) = lowersTo b (s.need b) s := by
  unfold lowerReservation lowersTo
  simp only [h, if_false]
  rw [offerHeadroom_served, lowerEntries_flatMap]
  rfl

/-- What `dropWaiting` leaves alone. -/
@[simp] theorem dropWaiting_frame (b : Berth) (s : State) :
    (dropWaiting b s).now = s.now ∧ (dropWaiting b s).resetHeld = s.resetHeld ∧
    (dropWaiting b s).links = s.links ∧ (dropWaiting b s).berths = s.berths ∧
    (dropWaiting b s).units = s.units ∧ (dropWaiting b s).pool = s.pool ∧
    (dropWaiting b s).references = s.references ∧ (dropWaiting b s).capture = s.capture ∧
    (dropWaiting b s).port = s.port ∧ (dropWaiting b s).syncs = s.syncs ∧
    (dropWaiting b s).sections = s.sections ∧ (dropWaiting b s).meters = s.meters ∧
    (dropWaiting b s).tariff = s.tariff ∧ (dropWaiting b s).records = s.records ∧
    (dropWaiting b s).settings = s.settings ∧ (dropWaiting b s).sent = s.sent ∧
    (dropWaiting b s).freeCount = s.freeCount ∧ (dropWaiting b s).pending = s.pending ∧
    (∀ c, (dropWaiting b s).berth c = s.berth c) ∧ (∀ c, (dropWaiting b s).sec c = s.sec c) ∧
    (∀ c, (dropWaiting b s).unit c = s.unit c) ∧ (∀ c, (dropWaiting b s).reference c = s.reference c) ∧
    (∀ c, (dropWaiting b s).sync c = s.sync c) ∧ (∀ c, (dropWaiting b s).meter c = s.meter c) := by
  unfold dropWaiting; (try dsimp only); (repeat' split) <;> simp

/-- What `lowerReservation` leaves alone. -/
@[simp] theorem lowerReservation_frame (b : Berth) (s : State) :
    (lowerReservation b s).now = s.now ∧ (lowerReservation b s).resetHeld = s.resetHeld ∧
    (lowerReservation b s).links = s.links ∧ (lowerReservation b s).berths = s.berths ∧
    (lowerReservation b s).units = s.units ∧ (lowerReservation b s).pool = s.pool ∧
    (lowerReservation b s).references = s.references ∧ (lowerReservation b s).capture = s.capture ∧
    (lowerReservation b s).port = s.port ∧ (lowerReservation b s).syncs = s.syncs ∧
    (lowerReservation b s).sections = s.sections ∧ (lowerReservation b s).meters = s.meters ∧
    (lowerReservation b s).tariff = s.tariff ∧ (lowerReservation b s).records = s.records ∧
    (lowerReservation b s).settings = s.settings ∧ (lowerReservation b s).sent = s.sent ∧
    (lowerReservation b s).freeCount = s.freeCount ∧ (lowerReservation b s).pending = s.pending ∧
    (∀ c, (lowerReservation b s).berth c = s.berth c) ∧ (∀ c, (lowerReservation b s).sec c = s.sec c) ∧
    (∀ c, (lowerReservation b s).unit c = s.unit c) ∧
    (∀ c, (lowerReservation b s).reference c = s.reference c) ∧
    (∀ c, (lowerReservation b s).sync c = s.sync c) ∧ (∀ c, (lowerReservation b s).meter c = s.meter c) := by
  unfold lowerReservation; (try dsimp only); (repeat' split) <;> simp

/-- What `reportSetpoint` leaves alone. -/
@[simp] theorem reportSetpoint_frame (b : Berth) (s : State) :
    (reportSetpoint b s).now = s.now ∧ (reportSetpoint b s).resetHeld = s.resetHeld ∧
    (reportSetpoint b s).links = s.links ∧ (reportSetpoint b s).berths = s.berths ∧
    (reportSetpoint b s).units = s.units ∧ (reportSetpoint b s).references = s.references ∧
    (reportSetpoint b s).capture = s.capture ∧ (reportSetpoint b s).port = s.port ∧
    (reportSetpoint b s).syncs = s.syncs ∧ (reportSetpoint b s).sections = s.sections ∧
    (reportSetpoint b s).meters = s.meters ∧ (reportSetpoint b s).tariff = s.tariff ∧
    (reportSetpoint b s).records = s.records ∧ (reportSetpoint b s).settings = s.settings ∧
    (reportSetpoint b s).freeCount = s.freeCount ∧ (reportSetpoint b s).pending = s.pending ∧
    (∀ c, (reportSetpoint b s).berth c = s.berth c) ∧ (∀ c, (reportSetpoint b s).sec c = s.sec c) ∧
    (∀ c, (reportSetpoint b s).unit c = s.unit c) ∧ (∀ c, (reportSetpoint b s).reference c = s.reference c) ∧
    (∀ c, (reportSetpoint b s).sync c = s.sync c) ∧ (∀ c, (reportSetpoint b s).meter c = s.meter c) := by
  simp [reportSetpoint]

/-- What `setSetpoint` leaves alone. -/
@[simp] theorem setSetpoint_frame (b : Berth) (v : Nat) (s : State) :
    (setSetpoint b v s).now = s.now ∧ (setSetpoint b v s).resetHeld = s.resetHeld ∧
    (setSetpoint b v s).links = s.links ∧ (setSetpoint b v s).berths = s.berths ∧
    (setSetpoint b v s).units = s.units ∧ (setSetpoint b v s).references = s.references ∧
    (setSetpoint b v s).capture = s.capture ∧ (setSetpoint b v s).port = s.port ∧
    (setSetpoint b v s).syncs = s.syncs ∧ (setSetpoint b v s).sections = s.sections ∧
    (setSetpoint b v s).meters = s.meters ∧ (setSetpoint b v s).tariff = s.tariff ∧
    (setSetpoint b v s).records = s.records ∧ (setSetpoint b v s).settings = s.settings ∧
    (setSetpoint b v s).freeCount = s.freeCount ∧ (setSetpoint b v s).pending = s.pending ∧
    (∀ c, (setSetpoint b v s).berth c = s.berth c) ∧ (∀ c, (setSetpoint b v s).sec c = s.sec c) ∧
    (∀ c, (setSetpoint b v s).unit c = s.unit c) ∧ (∀ c, (setSetpoint b v s).reference c = s.reference c) ∧
    (∀ c, (setSetpoint b v s).sync c = s.sync c) ∧ (∀ c, (setSetpoint b v s).meter c = s.meter c) := by
  unfold setSetpoint; (try dsimp only); (repeat' split) <;> simp

/-- What `clearReservation` leaves alone. -/
@[simp] theorem clearReservation_frame (b : Berth) (s : State) :
    (clearReservation b s).now = s.now ∧ (clearReservation b s).resetHeld = s.resetHeld ∧
    (clearReservation b s).links = s.links ∧ (clearReservation b s).berths = s.berths ∧
    (clearReservation b s).units = s.units ∧ (clearReservation b s).pool = s.pool ∧
    (clearReservation b s).references = s.references ∧ (clearReservation b s).capture = s.capture ∧
    (clearReservation b s).port = s.port ∧ (clearReservation b s).syncs = s.syncs ∧
    (clearReservation b s).sections = s.sections ∧ (clearReservation b s).meters = s.meters ∧
    (clearReservation b s).tariff = s.tariff ∧ (clearReservation b s).records = s.records ∧
    (clearReservation b s).settings = s.settings ∧ (clearReservation b s).sent = s.sent ∧
    (clearReservation b s).freeCount = s.freeCount ∧ (clearReservation b s).pending = s.pending ∧
    (∀ c, (clearReservation b s).berth c = s.berth c) ∧ (∀ c, (clearReservation b s).sec c = s.sec c) ∧
    (∀ c, (clearReservation b s).unit c = s.unit c) ∧
    (∀ c, (clearReservation b s).reference c = s.reference c) ∧
    (∀ c, (clearReservation b s).sync c = s.sync c) ∧ (∀ c, (clearReservation b s).meter c = s.meter c) := by
  simp [clearReservation]

/-- What `askBudget` leaves alone. -/
@[simp] theorem askBudget_frame (b : Berth) (s : State) :
    (askBudget b s).now = s.now ∧ (askBudget b s).resetHeld = s.resetHeld ∧ (askBudget b s).links = s.links ∧
    (askBudget b s).berths = s.berths ∧ (askBudget b s).units = s.units ∧ (askBudget b s).pool = s.pool ∧
    (askBudget b s).references = s.references ∧ (askBudget b s).capture = s.capture ∧
    (askBudget b s).port = s.port ∧ (askBudget b s).syncs = s.syncs ∧ (askBudget b s).sections = s.sections ∧
    (askBudget b s).meters = s.meters ∧ (askBudget b s).tariff = s.tariff ∧
    (askBudget b s).records = s.records ∧ (askBudget b s).settings = s.settings ∧
    (askBudget b s).sent = s.sent ∧ (askBudget b s).freeCount = s.freeCount ∧
    (askBudget b s).pending = s.pending ∧ (∀ c, (askBudget b s).berth c = s.berth c) ∧
    (∀ c, (askBudget b s).sec c = s.sec c) ∧ (∀ c, (askBudget b s).unit c = s.unit c) ∧
    (∀ c, (askBudget b s).reference c = s.reference c) ∧ (∀ c, (askBudget b s).sync c = s.sync c) ∧
    (∀ c, (askBudget b s).meter c = s.meter c) := by
  unfold askBudget; (try dsimp only); (repeat' split) <;> simp

/-- What `retargetAndLower` leaves alone. -/
@[simp] theorem retargetAndLower_frame (b : Berth) (s : State) :
    (retargetAndLower b s).now = s.now ∧ (retargetAndLower b s).resetHeld = s.resetHeld ∧
    (retargetAndLower b s).links = s.links ∧ (retargetAndLower b s).berths = s.berths ∧
    (retargetAndLower b s).units = s.units ∧ (retargetAndLower b s).pool = s.pool ∧
    (retargetAndLower b s).references = s.references ∧ (retargetAndLower b s).capture = s.capture ∧
    (retargetAndLower b s).port = s.port ∧ (retargetAndLower b s).syncs = s.syncs ∧
    (retargetAndLower b s).sections = s.sections ∧ (retargetAndLower b s).meters = s.meters ∧
    (retargetAndLower b s).tariff = s.tariff ∧ (retargetAndLower b s).records = s.records ∧
    (retargetAndLower b s).settings = s.settings ∧ (retargetAndLower b s).sent = s.sent ∧
    (retargetAndLower b s).freeCount = s.freeCount ∧ (retargetAndLower b s).pending = s.pending ∧
    (∀ c, (retargetAndLower b s).berth c = s.berth c) ∧ (∀ c, (retargetAndLower b s).sec c = s.sec c) ∧
    (∀ c, (retargetAndLower b s).unit c = s.unit c) ∧
    (∀ c, (retargetAndLower b s).reference c = s.reference c) ∧
    (∀ c, (retargetAndLower b s).sync c = s.sync c) ∧ (∀ c, (retargetAndLower b s).meter c = s.meter c) := by
  simp [retargetAndLower]

/-- What `startSeparationWait` leaves alone. -/
@[simp] theorem startSeparationWait_frame (b : Berth) (s : State) :
    (startSeparationWait b s).now = s.now ∧ (startSeparationWait b s).resetHeld = s.resetHeld ∧
    (startSeparationWait b s).links = s.links ∧ (startSeparationWait b s).berths = s.berths ∧
    (startSeparationWait b s).units = s.units ∧ (startSeparationWait b s).pool = s.pool ∧
    (startSeparationWait b s).references = s.references ∧ (startSeparationWait b s).capture = s.capture ∧
    (startSeparationWait b s).port = s.port ∧ (startSeparationWait b s).syncs = s.syncs ∧
    (startSeparationWait b s).budget = s.budget ∧ (startSeparationWait b s).sections = s.sections ∧
    (startSeparationWait b s).meters = s.meters ∧ (startSeparationWait b s).tariff = s.tariff ∧
    (startSeparationWait b s).records = s.records ∧ (startSeparationWait b s).settings = s.settings ∧
    (startSeparationWait b s).sent = s.sent ∧ (startSeparationWait b s).freeCount = s.freeCount ∧
    (startSeparationWait b s).pending = s.pending ∧ (∀ c, (startSeparationWait b s).berth c = s.berth c) ∧
    (∀ c, (startSeparationWait b s).sec c = s.sec c) ∧ (∀ c, (startSeparationWait b s).unit c = s.unit c) ∧
    (∀ c, (startSeparationWait b s).reference c = s.reference c) ∧
    (∀ c, (startSeparationWait b s).sync c = s.sync c) ∧ (∀ c, (startSeparationWait b s).meter c = s.meter c) := by
  unfold startSeparationWait; (try dsimp only); (repeat' split) <;> simp

/-- What `capacityReport` leaves alone. -/
@[simp] theorem capacityReport_frame (b : Berth) (s : State) :
    (capacityReport b s).now = s.now ∧ (capacityReport b s).resetHeld = s.resetHeld ∧
    (capacityReport b s).links = s.links ∧ (capacityReport b s).berths = s.berths ∧
    (capacityReport b s).units = s.units ∧ (capacityReport b s).references = s.references ∧
    (capacityReport b s).capture = s.capture ∧ (capacityReport b s).port = s.port ∧
    (capacityReport b s).syncs = s.syncs ∧ (capacityReport b s).sections = s.sections ∧
    (capacityReport b s).meters = s.meters ∧ (capacityReport b s).tariff = s.tariff ∧
    (capacityReport b s).records = s.records ∧ (capacityReport b s).settings = s.settings ∧
    (capacityReport b s).freeCount = s.freeCount ∧ (capacityReport b s).pending = s.pending ∧
    (∀ c, (capacityReport b s).berth c = s.berth c) ∧ (∀ c, (capacityReport b s).sec c = s.sec c) ∧
    (∀ c, (capacityReport b s).unit c = s.unit c) ∧ (∀ c, (capacityReport b s).reference c = s.reference c) ∧
    (∀ c, (capacityReport b s).sync c = s.sync c) ∧ (∀ c, (capacityReport b s).meter c = s.meter c) := by
  unfold capacityReport; (try dsimp only); (repeat' split) <;> simp

/-- What `clearRamp` leaves alone. -/
@[simp] theorem clearRamp_frame (b : Berth) (s : State) :
    (clearRamp b s).now = s.now ∧ (clearRamp b s).resetHeld = s.resetHeld ∧ (clearRamp b s).links = s.links ∧
    (clearRamp b s).berths = s.berths ∧ (clearRamp b s).units = s.units ∧
    (clearRamp b s).references = s.references ∧ (clearRamp b s).capture = s.capture ∧
    (clearRamp b s).port = s.port ∧ (clearRamp b s).syncs = s.syncs ∧ (clearRamp b s).sections = s.sections ∧
    (clearRamp b s).meters = s.meters ∧ (clearRamp b s).tariff = s.tariff ∧
    (clearRamp b s).records = s.records ∧ (clearRamp b s).settings = s.settings ∧
    (clearRamp b s).freeCount = s.freeCount ∧ (clearRamp b s).pending = s.pending ∧
    (∀ c, (clearRamp b s).berth c = s.berth c) ∧ (∀ c, (clearRamp b s).sec c = s.sec c) ∧
    (∀ c, (clearRamp b s).unit c = s.unit c) ∧ (∀ c, (clearRamp b s).reference c = s.reference c) ∧
    (∀ c, (clearRamp b s).sync c = s.sync c) ∧ (∀ c, (clearRamp b s).meter c = s.meter c) := by
  unfold clearRamp; (try dsimp only); (repeat' split) <;> simp

/-- What `holdRamp` leaves alone. -/
@[simp] theorem holdRamp_frame (b : Berth) (s : State) :
    (holdRamp b s).now = s.now ∧ (holdRamp b s).resetHeld = s.resetHeld ∧ (holdRamp b s).links = s.links ∧
    (holdRamp b s).berths = s.berths ∧ (holdRamp b s).units = s.units ∧ (holdRamp b s).pool = s.pool ∧
    (holdRamp b s).references = s.references ∧ (holdRamp b s).capture = s.capture ∧
    (holdRamp b s).port = s.port ∧ (holdRamp b s).syncs = s.syncs ∧ (holdRamp b s).sections = s.sections ∧
    (holdRamp b s).meters = s.meters ∧ (holdRamp b s).tariff = s.tariff ∧ (holdRamp b s).records = s.records ∧
    (holdRamp b s).settings = s.settings ∧ (holdRamp b s).sent = s.sent ∧
    (holdRamp b s).freeCount = s.freeCount ∧ (holdRamp b s).pending = s.pending ∧
    (∀ c, (holdRamp b s).berth c = s.berth c) ∧ (∀ c, (holdRamp b s).sec c = s.sec c) ∧
    (∀ c, (holdRamp b s).unit c = s.unit c) ∧ (∀ c, (holdRamp b s).reference c = s.reference c) ∧
    (∀ c, (holdRamp b s).sync c = s.sync c) ∧ (∀ c, (holdRamp b s).meter c = s.meter c) := by
  simp [holdRamp]

/-- What `rampOut` leaves alone. -/
@[simp] theorem rampOut_frame (b : Berth) (r : Nat) (s : State) :
    (rampOut b r s).now = s.now ∧ (rampOut b r s).resetHeld = s.resetHeld ∧ (rampOut b r s).links = s.links ∧
    (rampOut b r s).berths = s.berths ∧ (rampOut b r s).units = s.units ∧ (rampOut b r s).pool = s.pool ∧
    (rampOut b r s).references = s.references ∧ (rampOut b r s).capture = s.capture ∧
    (rampOut b r s).port = s.port ∧ (rampOut b r s).syncs = s.syncs ∧ (rampOut b r s).sections = s.sections ∧
    (rampOut b r s).meters = s.meters ∧ (rampOut b r s).tariff = s.tariff ∧
    (rampOut b r s).records = s.records ∧ (rampOut b r s).settings = s.settings ∧
    (rampOut b r s).sent = s.sent ∧ (rampOut b r s).freeCount = s.freeCount ∧
    (rampOut b r s).pending = s.pending ∧ (∀ c, (rampOut b r s).berth c = s.berth c) ∧
    (∀ c, (rampOut b r s).sec c = s.sec c) ∧ (∀ c, (rampOut b r s).unit c = s.unit c) ∧
    (∀ c, (rampOut b r s).reference c = s.reference c) ∧ (∀ c, (rampOut b r s).sync c = s.sync c) ∧
    (∀ c, (rampOut b r s).meter c = s.meter c) := by
  simp [rampOut]

/-- The state with another exceeded field. -/
def State.withExceeded (s : State) (x : Bool) : State := { s with budget := { s.budget with exceeded := x } }

/-- What `withExceeded` leaves alone. -/
@[simp] theorem withExceeded_frame (x : Bool) (s : State) :
    (s.withExceeded x).now = s.now ∧ (s.withExceeded x).resetHeld = s.resetHeld ∧
    (s.withExceeded x).links = s.links ∧ (s.withExceeded x).berths = s.berths ∧
    (s.withExceeded x).units = s.units ∧ (s.withExceeded x).pool = s.pool ∧
    (s.withExceeded x).references = s.references ∧ (s.withExceeded x).capture = s.capture ∧
    (s.withExceeded x).port = s.port ∧ (s.withExceeded x).syncs = s.syncs ∧ (s.withExceeded x).ramps = s.ramps ∧
    (s.withExceeded x).sections = s.sections ∧ (s.withExceeded x).meters = s.meters ∧
    (s.withExceeded x).tariff = s.tariff ∧ (s.withExceeded x).records = s.records ∧
    (s.withExceeded x).settings = s.settings ∧ (s.withExceeded x).sent = s.sent ∧
    (s.withExceeded x).freeCount = s.freeCount ∧ (s.withExceeded x).pending = s.pending ∧
    (∀ c, (s.withExceeded x).berth c = s.berth c) ∧ (∀ c, (s.withExceeded x).sec c = s.sec c) ∧
    (∀ c, (s.withExceeded x).unit c = s.unit c) ∧ (∀ c, (s.withExceeded x).reference c = s.reference c) ∧
    (∀ c, (s.withExceeded x).sync c = s.sync c) ∧ (∀ c, (s.withExceeded x).ramp c = s.ramp c) ∧
    (∀ c, (s.withExceeded x).meter c = s.meter c) := by
  refine ⟨rfl, rfl, rfl, rfl, rfl, rfl, rfl, rfl, rfl, rfl, rfl, rfl, rfl, rfl, rfl, rfl, rfl, rfl, rfl, fun _ => rfl, fun _ => rfl, fun _ => rfl, fun _ => rfl, fun _ => rfl, fun _ => rfl, fun _ => rfl⟩

/-- What `settleExceeded` leaves alone. -/
@[simp] theorem settleExceeded_frame (s : State) :
    (settleExceeded s).now = s.now ∧ (settleExceeded s).resetHeld = s.resetHeld ∧
    (settleExceeded s).berths = s.berths ∧ (settleExceeded s).units = s.units ∧
    (settleExceeded s).pool = s.pool ∧ (settleExceeded s).references = s.references ∧
    (settleExceeded s).capture = s.capture ∧ (settleExceeded s).port = s.port ∧
    (settleExceeded s).syncs = s.syncs ∧ (settleExceeded s).ramps = s.ramps ∧
    (settleExceeded s).sections = s.sections ∧ (settleExceeded s).meters = s.meters ∧
    (settleExceeded s).tariff = s.tariff ∧ (settleExceeded s).records = s.records ∧
    (settleExceeded s).settings = s.settings ∧ (settleExceeded s).freeCount = s.freeCount ∧
    (settleExceeded s).pending = s.pending ∧ (∀ c, (settleExceeded s).berth c = s.berth c) ∧
    (∀ c, (settleExceeded s).sec c = s.sec c) ∧ (∀ c, (settleExceeded s).unit c = s.unit c) ∧
    (∀ c, (settleExceeded s).reference c = s.reference c) ∧ (∀ c, (settleExceeded s).sync c = s.sync c) ∧
    (∀ c, (settleExceeded s).ramp c = s.ramp c) ∧ (∀ c, (settleExceeded s).meter c = s.meter c) ∧
    (∀ k, ((settleExceeded s).links.get k).up = (s.links.get k).up) := by
  have e : settleExceeded s =
      if decide (s.settings.importLimit < s.reserved) == s.budget.exceeded then s
      else if decide (s.settings.importLimit < s.reserved) then
        latchShore .importExceeded (s.withExceeded (decide (s.settings.importLimit < s.reserved)))
      else s.withExceeded (decide (s.settings.importLimit < s.reserved)) := rfl
  rw [e]; (repeat' split) <;> simp

/-- What `followLoad` leaves alone. -/
@[simp] theorem followLoad_frame (b : Berth) (p : BitVec 32) (s : State) :
    (followLoad b p s).now = s.now ∧ (followLoad b p s).resetHeld = s.resetHeld ∧
    (followLoad b p s).links = s.links ∧ (followLoad b p s).berths = s.berths ∧
    (followLoad b p s).units = s.units ∧ (followLoad b p s).references = s.references ∧
    (followLoad b p s).capture = s.capture ∧ (followLoad b p s).port = s.port ∧
    (followLoad b p s).syncs = s.syncs ∧ (followLoad b p s).sections = s.sections ∧
    (followLoad b p s).meters = s.meters ∧ (followLoad b p s).tariff = s.tariff ∧
    (followLoad b p s).records = s.records ∧ (followLoad b p s).settings = s.settings ∧
    (followLoad b p s).freeCount = s.freeCount ∧ (followLoad b p s).pending = s.pending ∧
    (∀ c, (followLoad b p s).berth c = s.berth c) ∧ (∀ c, (followLoad b p s).sec c = s.sec c) ∧
    (∀ c, (followLoad b p s).unit c = s.unit c) ∧ (∀ c, (followLoad b p s).reference c = s.reference c) ∧
    (∀ c, (followLoad b p s).sync c = s.sync c) ∧ (∀ c, (followLoad b p s).meter c = s.meter c) := by
  unfold followLoad; (try dsimp only); (repeat' split) <;> simp

/-- What `commandOutletClosed` leaves alone. -/
@[simp] theorem commandOutletClosed_frame (b : Berth) (s : State) :
    (commandOutletClosed b s).now = s.now ∧ (commandOutletClosed b s).resetHeld = s.resetHeld ∧
    (commandOutletClosed b s).links = s.links ∧ (commandOutletClosed b s).berths = s.berths ∧
    (commandOutletClosed b s).units = s.units ∧ (commandOutletClosed b s).pool = s.pool ∧
    (commandOutletClosed b s).references = s.references ∧ (commandOutletClosed b s).capture = s.capture ∧
    (commandOutletClosed b s).port = s.port ∧ (commandOutletClosed b s).syncs = s.syncs ∧
    (commandOutletClosed b s).ramps = s.ramps ∧ (commandOutletClosed b s).budget = s.budget ∧
    (commandOutletClosed b s).meters = s.meters ∧ (commandOutletClosed b s).tariff = s.tariff ∧
    (commandOutletClosed b s).records = s.records ∧ (commandOutletClosed b s).settings = s.settings ∧
    (commandOutletClosed b s).sent = s.sent ∧ (commandOutletClosed b s).freeCount = s.freeCount ∧
    (commandOutletClosed b s).pending = s.pending ∧ (∀ c, (commandOutletClosed b s).berth c = s.berth c) ∧
    (∀ c, ((commandOutletClosed b s).sec c).emergencyStop = (s.sec c).emergencyStop) ∧
    (∀ c, ((commandOutletClosed b s).sec c).plugPilot = (s.sec c).plugPilot) ∧
    (∀ c, ((commandOutletClosed b s).sec c).outletAux = (s.sec c).outletAux) ∧
    (∀ c, ((commandOutletClosed b s).sec c).couplerAux = (s.sec c).couplerAux) ∧
    (∀ c, ((commandOutletClosed b s).sec c).earthResult = (s.sec c).earthResult) ∧
    (∀ c, ((commandOutletClosed b s).sec c).deferrals = (s.sec c).deferrals) ∧
    (∀ c, ((commandOutletClosed b s).sec c).schedule = (s.sec c).schedule) ∧
    (∀ c, (commandOutletClosed b s).unit c = s.unit c) ∧
    (∀ c, (commandOutletClosed b s).reference c = s.reference c) ∧
    (∀ c, (commandOutletClosed b s).sync c = s.sync c) ∧ (∀ c, (commandOutletClosed b s).ramp c = s.ramp c) ∧
    (∀ c, (commandOutletClosed b s).meter c = s.meter c) := by
  unfold commandOutletClosed; (try dsimp only); (repeat' split) <;> simp

/-- What `tryChargeStart` leaves alone. -/
@[simp] theorem tryChargeStart_frame (s : State) :
    (tryChargeStart s).now = s.now ∧ (tryChargeStart s).resetHeld = s.resetHeld ∧
    (tryChargeStart s).links = s.links ∧ (tryChargeStart s).berths = s.berths ∧
    (tryChargeStart s).units = s.units ∧ (tryChargeStart s).references = s.references ∧
    (tryChargeStart s).capture = s.capture ∧ (tryChargeStart s).port = s.port ∧
    (tryChargeStart s).syncs = s.syncs ∧ (tryChargeStart s).ramps = s.ramps ∧
    (tryChargeStart s).budget = s.budget ∧ (tryChargeStart s).sections = s.sections ∧
    (tryChargeStart s).meters = s.meters ∧ (tryChargeStart s).tariff = s.tariff ∧
    (tryChargeStart s).records = s.records ∧ (tryChargeStart s).settings = s.settings ∧
    (tryChargeStart s).freeCount = s.freeCount ∧ (tryChargeStart s).pending = s.pending ∧
    (∀ c, (tryChargeStart s).berth c = s.berth c) ∧ (∀ c, (tryChargeStart s).sec c = s.sec c) ∧
    (∀ c, (tryChargeStart s).unit c = s.unit c) ∧ (∀ c, (tryChargeStart s).reference c = s.reference c) ∧
    (∀ c, (tryChargeStart s).sync c = s.sync c) ∧ (∀ c, (tryChargeStart s).ramp c = s.ramp c) ∧
    (∀ c, (tryChargeStart s).meter c = s.meter c) := by
  unfold tryChargeStart; (try dsimp only); (repeat' split) <;> simp

/-- What `enterRunning` leaves alone. -/
@[simp] theorem enterRunning_frame (m : ModuleId) (b : Berth) (s : State) :
    (enterRunning m b s).now = s.now ∧ (enterRunning m b s).resetHeld = s.resetHeld ∧
    (enterRunning m b s).links = s.links ∧ (enterRunning m b s).units = s.units ∧
    (enterRunning m b s).references = s.references ∧ (enterRunning m b s).capture = s.capture ∧
    (enterRunning m b s).port = s.port ∧ (enterRunning m b s).syncs = s.syncs ∧
    (enterRunning m b s).sections = s.sections ∧ (enterRunning m b s).meters = s.meters ∧
    (enterRunning m b s).tariff = s.tariff ∧ (enterRunning m b s).records = s.records ∧
    (enterRunning m b s).settings = s.settings ∧ (enterRunning m b s).freeCount = s.freeCount ∧
    (enterRunning m b s).pending = s.pending ∧
    (∀ c, ((enterRunning m b s).berth c).inService = (s.berth c).inService) ∧
    (∀ c, ((enterRunning m b s).berth c).stage = (s.berth c).stage) ∧
    (∀ c, ((enterRunning m b s).berth c).holder = (s.berth c).holder) ∧
    (∀ c, ((enterRunning m b s).berth c).pendingSince = (s.berth c).pendingSince) ∧
    (∀ c, ((enterRunning m b s).berth c).agreement = (s.berth c).agreement) ∧
    (∀ c, ((enterRunning m b s).berth c).causes = (s.berth c).causes) ∧
    (∀ c, ((enterRunning m b s).berth c).status = (s.berth c).status) ∧
    (∀ c, ((enterRunning m b s).berth c).summaryReserved = (s.berth c).summaryReserved) ∧
    (∀ c, ((enterRunning m b s).berth c).linkLost = (s.berth c).linkLost) ∧
    (∀ c, ((enterRunning m b s).berth c).syncHold = (s.berth c).syncHold) ∧
    (∀ c, ((enterRunning m b s).berth c).separationCause = (s.berth c).separationCause) ∧
    (∀ c, ((enterRunning m b s).berth c).stageTimer = (s.berth c).stageTimer) ∧
    (∀ c, ((enterRunning m b s).berth c).qualification = (s.berth c).qualification) ∧
    (∀ c, (enterRunning m b s).sec c = s.sec c) ∧ (∀ c, (enterRunning m b s).unit c = s.unit c) ∧
    (∀ c, (enterRunning m b s).reference c = s.reference c) ∧ (∀ c, (enterRunning m b s).sync c = s.sync c) ∧
    (∀ c, (enterRunning m b s).meter c = s.meter c) := by
  simp [enterRunning]

/-- What `leaveRunning` leaves alone. -/
@[simp] theorem leaveRunning_frame (m : ModuleId) (b : Berth) (s : State) :
    (leaveRunning m b s).now = s.now ∧ (leaveRunning m b s).resetHeld = s.resetHeld ∧
    (leaveRunning m b s).links = s.links ∧ (leaveRunning m b s).units = s.units ∧
    (leaveRunning m b s).references = s.references ∧ (leaveRunning m b s).capture = s.capture ∧
    (leaveRunning m b s).port = s.port ∧ (leaveRunning m b s).syncs = s.syncs ∧
    (leaveRunning m b s).sections = s.sections ∧ (leaveRunning m b s).meters = s.meters ∧
    (leaveRunning m b s).tariff = s.tariff ∧ (leaveRunning m b s).records = s.records ∧
    (leaveRunning m b s).settings = s.settings ∧ (leaveRunning m b s).freeCount = s.freeCount ∧
    (leaveRunning m b s).pending = s.pending ∧
    (∀ c, ((leaveRunning m b s).berth c).inService = (s.berth c).inService) ∧
    (∀ c, ((leaveRunning m b s).berth c).stage = (s.berth c).stage) ∧
    (∀ c, ((leaveRunning m b s).berth c).holder = (s.berth c).holder) ∧
    (∀ c, ((leaveRunning m b s).berth c).pendingSince = (s.berth c).pendingSince) ∧
    (∀ c, ((leaveRunning m b s).berth c).agreement = (s.berth c).agreement) ∧
    (∀ c, ((leaveRunning m b s).berth c).causes = (s.berth c).causes) ∧
    (∀ c, ((leaveRunning m b s).berth c).status = (s.berth c).status) ∧
    (∀ c, ((leaveRunning m b s).berth c).summaryReserved = (s.berth c).summaryReserved) ∧
    (∀ c, ((leaveRunning m b s).berth c).linkLost = (s.berth c).linkLost) ∧
    (∀ c, ((leaveRunning m b s).berth c).syncHold = (s.berth c).syncHold) ∧
    (∀ c, ((leaveRunning m b s).berth c).separationCause = (s.berth c).separationCause) ∧
    (∀ c, ((leaveRunning m b s).berth c).stageTimer = (s.berth c).stageTimer) ∧
    (∀ c, ((leaveRunning m b s).berth c).qualification = (s.berth c).qualification) ∧
    (∀ c, (leaveRunning m b s).sec c = s.sec c) ∧ (∀ c, (leaveRunning m b s).unit c = s.unit c) ∧
    (∀ c, (leaveRunning m b s).reference c = s.reference c) ∧ (∀ c, (leaveRunning m b s).sync c = s.sync c) ∧
    (∀ c, (leaveRunning m b s).meter c = s.meter c) := by
  simp [leaveRunning]

/-- What `checkComplete` leaves alone. -/
@[simp] theorem checkComplete_frame (b : Berth) (s : State) :
    (checkComplete b s).now = s.now ∧ (checkComplete b s).resetHeld = s.resetHeld ∧
    (checkComplete b s).links = s.links ∧ (checkComplete b s).units = s.units ∧
    (checkComplete b s).pool = s.pool ∧ (checkComplete b s).references = s.references ∧
    (checkComplete b s).capture = s.capture ∧ (checkComplete b s).port = s.port ∧
    (checkComplete b s).syncs = s.syncs ∧ (checkComplete b s).ramps = s.ramps ∧
    (checkComplete b s).budget = s.budget ∧ (checkComplete b s).meters = s.meters ∧
    (checkComplete b s).tariff = s.tariff ∧ (checkComplete b s).records = s.records ∧
    (checkComplete b s).settings = s.settings ∧ (checkComplete b s).sent = s.sent ∧
    (checkComplete b s).freeCount = s.freeCount ∧ (checkComplete b s).pending = s.pending ∧
    (∀ c, ((checkComplete b s).berth c).inService = (s.berth c).inService) ∧
    (∀ c, ((checkComplete b s).berth c).stage = (s.berth c).stage) ∧
    (∀ c, ((checkComplete b s).berth c).holder = (s.berth c).holder) ∧
    (∀ c, ((checkComplete b s).berth c).pendingSince = (s.berth c).pendingSince) ∧
    (∀ c, ((checkComplete b s).berth c).agreement = (s.berth c).agreement) ∧
    (∀ c, ((checkComplete b s).berth c).causes = (s.berth c).causes) ∧
    (∀ c, ((checkComplete b s).berth c).status = (s.berth c).status) ∧
    (∀ c, ((checkComplete b s).berth c).moduleCount = (s.berth c).moduleCount) ∧
    (∀ c, ((checkComplete b s).berth c).summaryReserved = (s.berth c).summaryReserved) ∧
    (∀ c, ((checkComplete b s).berth c).linkLost = (s.berth c).linkLost) ∧
    (∀ c, ((checkComplete b s).berth c).syncHold = (s.berth c).syncHold) ∧
    (∀ c, ((checkComplete b s).berth c).separationCause = (s.berth c).separationCause) ∧
    (∀ c, ((checkComplete b s).berth c).qualification = (s.berth c).qualification) ∧
    (∀ c, ((checkComplete b s).sec c).emergencyStop = (s.sec c).emergencyStop) ∧
    (∀ c, ((checkComplete b s).sec c).plugPilot = (s.sec c).plugPilot) ∧
    (∀ c, ((checkComplete b s).sec c).outletAux = (s.sec c).outletAux) ∧
    (∀ c, ((checkComplete b s).sec c).couplerAux = (s.sec c).couplerAux) ∧
    (∀ c, ((checkComplete b s).sec c).earthResult = (s.sec c).earthResult) ∧
    (∀ c, ((checkComplete b s).sec c).deferrals = (s.sec c).deferrals) ∧
    (∀ c, ((checkComplete b s).sec c).schedule = (s.sec c).schedule) ∧
    (∀ c, (checkComplete b s).unit c = s.unit c) ∧ (∀ c, (checkComplete b s).reference c = s.reference c) ∧
    (∀ c, (checkComplete b s).sync c = s.sync c) ∧ (∀ c, (checkComplete b s).ramp c = s.ramp c) ∧
    (∀ c, (checkComplete b s).meter c = s.meter c) := by
  unfold checkComplete; (try dsimp only); (repeat' split) <;> simp

/-- What `grantReady` leaves alone. -/
@[simp] theorem grantReady_frame (b : Berth) (l : List ModuleId) (s : State) :
    (grantReady b l s).now = s.now ∧ (grantReady b l s).resetHeld = s.resetHeld ∧
    (grantReady b l s).links = s.links ∧ (grantReady b l s).units = s.units ∧
    (grantReady b l s).references = s.references ∧ (grantReady b l s).capture = s.capture ∧
    (grantReady b l s).port = s.port ∧ (grantReady b l s).syncs = s.syncs ∧
    (grantReady b l s).meters = s.meters ∧ (grantReady b l s).tariff = s.tariff ∧
    (grantReady b l s).records = s.records ∧ (grantReady b l s).settings = s.settings ∧
    (grantReady b l s).freeCount = s.freeCount ∧ (grantReady b l s).pending = s.pending ∧
    (∀ c, ((grantReady b l s).berth c).inService = (s.berth c).inService) ∧
    (∀ c, ((grantReady b l s).berth c).stage = (s.berth c).stage) ∧
    (∀ c, ((grantReady b l s).berth c).holder = (s.berth c).holder) ∧
    (∀ c, ((grantReady b l s).berth c).pendingSince = (s.berth c).pendingSince) ∧
    (∀ c, ((grantReady b l s).berth c).agreement = (s.berth c).agreement) ∧
    (∀ c, ((grantReady b l s).berth c).causes = (s.berth c).causes) ∧
    (∀ c, ((grantReady b l s).berth c).status = (s.berth c).status) ∧
    (∀ c, ((grantReady b l s).berth c).summaryReserved = (s.berth c).summaryReserved) ∧
    (∀ c, ((grantReady b l s).berth c).linkLost = (s.berth c).linkLost) ∧
    (∀ c, ((grantReady b l s).berth c).syncHold = (s.berth c).syncHold) ∧
    (∀ c, ((grantReady b l s).berth c).separationCause = (s.berth c).separationCause) ∧
    (∀ c, ((grantReady b l s).berth c).qualification = (s.berth c).qualification) ∧
    (∀ c, ((grantReady b l s).sec c).emergencyStop = (s.sec c).emergencyStop) ∧
    (∀ c, ((grantReady b l s).sec c).plugPilot = (s.sec c).plugPilot) ∧
    (∀ c, ((grantReady b l s).sec c).outletAux = (s.sec c).outletAux) ∧
    (∀ c, ((grantReady b l s).sec c).couplerAux = (s.sec c).couplerAux) ∧
    (∀ c, ((grantReady b l s).sec c).earthResult = (s.sec c).earthResult) ∧
    (∀ c, ((grantReady b l s).sec c).deferrals = (s.sec c).deferrals) ∧
    (∀ c, ((grantReady b l s).sec c).schedule = (s.sec c).schedule) ∧
    (∀ c, (grantReady b l s).unit c = s.unit c) ∧ (∀ c, (grantReady b l s).reference c = s.reference c) ∧
    (∀ c, (grantReady b l s).sync c = s.sync c) ∧ (∀ c, (grantReady b l s).meter c = s.meter c) := by
  unfold grantReady
  exact ⟨foldl_keeps State.now _ (by intros; simp) _ _,
    foldl_keeps State.resetHeld _ (by intros; simp) _ _,
    foldl_keeps State.links _ (by intros; simp) _ _,
    foldl_keeps State.units _ (by intros; simp) _ _,
    foldl_keeps State.references _ (by intros; simp) _ _,
    foldl_keeps State.capture _ (by intros; simp) _ _,
    foldl_keeps State.port _ (by intros; simp) _ _,
    foldl_keeps State.syncs _ (by intros; simp) _ _,
    foldl_keeps State.meters _ (by intros; simp) _ _,
    foldl_keeps State.tariff _ (by intros; simp) _ _,
    foldl_keeps State.records _ (by intros; simp) _ _,
    foldl_keeps State.settings _ (by intros; simp) _ _,
    foldl_keeps State.freeCount _ (by intros; simp) _ _,
    foldl_keeps State.pending _ (by intros; simp) _ _,
    fun c => foldl_keeps (fun s => (s.berth c).inService) _ (by intros; simp) _ _,
    fun c => foldl_keeps (fun s => (s.berth c).stage) _ (by intros; simp) _ _,
    fun c => foldl_keeps (fun s => (s.berth c).holder) _ (by intros; simp) _ _,
    fun c => foldl_keeps (fun s => (s.berth c).pendingSince) _ (by intros; simp) _ _,
    fun c => foldl_keeps (fun s => (s.berth c).agreement) _ (by intros; simp) _ _,
    fun c => foldl_keeps (fun s => (s.berth c).causes) _ (by intros; simp) _ _,
    fun c => foldl_keeps (fun s => (s.berth c).status) _ (by intros; simp) _ _,
    fun c => foldl_keeps (fun s => (s.berth c).summaryReserved) _ (by intros; simp) _ _,
    fun c => foldl_keeps (fun s => (s.berth c).linkLost) _ (by intros; simp) _ _,
    fun c => foldl_keeps (fun s => (s.berth c).syncHold) _ (by intros; simp) _ _,
    fun c => foldl_keeps (fun s => (s.berth c).separationCause) _ (by intros; simp) _ _,
    fun c => foldl_keeps (fun s => (s.berth c).qualification) _ (by intros; simp) _ _,
    fun c => foldl_keeps (fun s => (s.sec c).emergencyStop) _ (by intros; simp) _ _,
    fun c => foldl_keeps (fun s => (s.sec c).plugPilot) _ (by intros; simp) _ _,
    fun c => foldl_keeps (fun s => (s.sec c).outletAux) _ (by intros; simp) _ _,
    fun c => foldl_keeps (fun s => (s.sec c).couplerAux) _ (by intros; simp) _ _,
    fun c => foldl_keeps (fun s => (s.sec c).earthResult) _ (by intros; simp) _ _,
    fun c => foldl_keeps (fun s => (s.sec c).deferrals) _ (by intros; simp) _ _,
    fun c => foldl_keeps (fun s => (s.sec c).schedule) _ (by intros; simp) _ _,
    fun c => foldl_keeps (fun s => s.unit c) _ (by intros; simp) _ _,
    fun c => foldl_keeps (fun s => s.reference c) _ (by intros; simp) _ _,
    fun c => foldl_keeps (fun s => s.sync c) _ (by intros; simp) _ _,
    fun c => foldl_keeps (fun s => s.meter c) _ (by intros; simp) _ _⟩

/-- What `grantDark` leaves alone. -/
@[simp] theorem grantDark_frame (b : Berth) (l : List ModuleId) (s : State) :
    (grantDark b l s).now = s.now ∧ (grantDark b l s).resetHeld = s.resetHeld ∧
    (grantDark b l s).links = s.links ∧ (grantDark b l s).berths = s.berths ∧
    (grantDark b l s).units = s.units ∧ (grantDark b l s).references = s.references ∧
    (grantDark b l s).capture = s.capture ∧ (grantDark b l s).port = s.port ∧
    (grantDark b l s).syncs = s.syncs ∧ (grantDark b l s).ramps = s.ramps ∧
    (grantDark b l s).budget = s.budget ∧ (grantDark b l s).sections = s.sections ∧
    (grantDark b l s).meters = s.meters ∧ (grantDark b l s).tariff = s.tariff ∧
    (grantDark b l s).records = s.records ∧ (grantDark b l s).settings = s.settings ∧
    (grantDark b l s).sent = s.sent ∧ (grantDark b l s).freeCount = s.freeCount ∧
    (grantDark b l s).pending = s.pending ∧ (∀ c, (grantDark b l s).berth c = s.berth c) ∧
    (∀ c, (grantDark b l s).sec c = s.sec c) ∧ (∀ c, (grantDark b l s).unit c = s.unit c) ∧
    (∀ c, (grantDark b l s).reference c = s.reference c) ∧ (∀ c, (grantDark b l s).sync c = s.sync c) ∧
    (∀ c, (grantDark b l s).ramp c = s.ramp c) ∧ (∀ c, (grantDark b l s).meter c = s.meter c) := by
  unfold grantDark
  exact ⟨foldl_keeps State.now _ (by intros; simp) _ _,
    foldl_keeps State.resetHeld _ (by intros; simp) _ _,
    foldl_keeps State.links _ (by intros; simp) _ _,
    foldl_keeps State.berths _ (by intros; simp) _ _,
    foldl_keeps State.units _ (by intros; simp) _ _,
    foldl_keeps State.references _ (by intros; simp) _ _,
    foldl_keeps State.capture _ (by intros; simp) _ _,
    foldl_keeps State.port _ (by intros; simp) _ _,
    foldl_keeps State.syncs _ (by intros; simp) _ _,
    foldl_keeps State.ramps _ (by intros; simp) _ _,
    foldl_keeps State.budget _ (by intros; simp) _ _,
    foldl_keeps State.sections _ (by intros; simp) _ _,
    foldl_keeps State.meters _ (by intros; simp) _ _,
    foldl_keeps State.tariff _ (by intros; simp) _ _,
    foldl_keeps State.records _ (by intros; simp) _ _,
    foldl_keeps State.settings _ (by intros; simp) _ _,
    foldl_keeps State.sent _ (by intros; simp) _ _,
    foldl_keeps State.freeCount _ (by intros; simp) _ _,
    foldl_keeps State.pending _ (by intros; simp) _ _,
    fun c => foldl_keeps (fun s => s.berth c) _ (by intros; simp) _ _,
    fun c => foldl_keeps (fun s => s.sec c) _ (by intros; simp) _ _,
    fun c => foldl_keeps (fun s => s.unit c) _ (by intros; simp) _ _,
    fun c => foldl_keeps (fun s => s.reference c) _ (by intros; simp) _ _,
    fun c => foldl_keeps (fun s => s.sync c) _ (by intros; simp) _ _,
    fun c => foldl_keeps (fun s => s.ramp c) _ (by intros; simp) _ _,
    fun c => foldl_keeps (fun s => s.meter c) _ (by intros; simp) _ _⟩

theorem examine_succ (fuel : Nat) (s : State) (e : QueueEntry) (rest : List QueueEntry) (h : s.pool.queue = e :: rest) :
    examine (fuel + 1) s =
      if e.wanted ≤ s.readyModules.length + s.eligibleModules.length then
        let s' := grantDark e.berth (s.eligibleModules.take (e.wanted - s.readyModules.length))
          (grantReady e.berth (s.readyModules.take e.wanted) s)
        examine fuel (checkComplete e.berth (s'.modPool fun p => { p with queue := rest }))
      else s := by
  rw [examine.eq_def (fuel + 1) s]
  simp only [h]

/-- What `examine` leaves alone. -/
@[simp] theorem examine_frame (fuel : Nat) (s : State) :
    (examine fuel s).now = s.now ∧ (examine fuel s).resetHeld = s.resetHeld ∧ (examine fuel s).links = s.links ∧
    (examine fuel s).units = s.units ∧ (examine fuel s).references = s.references ∧
    (examine fuel s).capture = s.capture ∧ (examine fuel s).port = s.port ∧ (examine fuel s).syncs = s.syncs ∧
    (examine fuel s).meters = s.meters ∧ (examine fuel s).tariff = s.tariff ∧
    (examine fuel s).records = s.records ∧ (examine fuel s).settings = s.settings ∧
    (examine fuel s).freeCount = s.freeCount ∧ (examine fuel s).pending = s.pending ∧
    (∀ c, ((examine fuel s).berth c).inService = (s.berth c).inService) ∧
    (∀ c, ((examine fuel s).berth c).stage = (s.berth c).stage) ∧
    (∀ c, ((examine fuel s).berth c).holder = (s.berth c).holder) ∧
    (∀ c, ((examine fuel s).berth c).pendingSince = (s.berth c).pendingSince) ∧
    (∀ c, ((examine fuel s).berth c).agreement = (s.berth c).agreement) ∧
    (∀ c, ((examine fuel s).berth c).causes = (s.berth c).causes) ∧
    (∀ c, ((examine fuel s).berth c).status = (s.berth c).status) ∧
    (∀ c, ((examine fuel s).berth c).summaryReserved = (s.berth c).summaryReserved) ∧
    (∀ c, ((examine fuel s).berth c).linkLost = (s.berth c).linkLost) ∧
    (∀ c, ((examine fuel s).berth c).syncHold = (s.berth c).syncHold) ∧
    (∀ c, ((examine fuel s).berth c).separationCause = (s.berth c).separationCause) ∧
    (∀ c, ((examine fuel s).berth c).qualification = (s.berth c).qualification) ∧
    (∀ c, ((examine fuel s).sec c).emergencyStop = (s.sec c).emergencyStop) ∧
    (∀ c, ((examine fuel s).sec c).plugPilot = (s.sec c).plugPilot) ∧
    (∀ c, ((examine fuel s).sec c).outletAux = (s.sec c).outletAux) ∧
    (∀ c, ((examine fuel s).sec c).couplerAux = (s.sec c).couplerAux) ∧
    (∀ c, ((examine fuel s).sec c).earthResult = (s.sec c).earthResult) ∧
    (∀ c, ((examine fuel s).sec c).deferrals = (s.sec c).deferrals) ∧
    (∀ c, ((examine fuel s).sec c).schedule = (s.sec c).schedule) ∧ (∀ c, (examine fuel s).unit c = s.unit c) ∧
    (∀ c, (examine fuel s).reference c = s.reference c) ∧ (∀ c, (examine fuel s).sync c = s.sync c) ∧
    (∀ c, (examine fuel s).meter c = s.meter c) := by
  induction fuel generalizing s with
  | zero => simp [examine]
  | succ fuel ih =>
    cases h : s.pool.queue with
    | nil => simp [examine, h]
    | cons e rest =>
      rw [examine_succ fuel s e rest h]
      dsimp only
      split <;> simp [ih]

/-- What `examineQueue` leaves alone. -/
@[simp] theorem examineQueue_frame (s : State) :
    (examineQueue s).now = s.now ∧ (examineQueue s).resetHeld = s.resetHeld ∧ (examineQueue s).links = s.links ∧
    (examineQueue s).units = s.units ∧ (examineQueue s).references = s.references ∧
    (examineQueue s).capture = s.capture ∧ (examineQueue s).port = s.port ∧ (examineQueue s).syncs = s.syncs ∧
    (examineQueue s).meters = s.meters ∧ (examineQueue s).tariff = s.tariff ∧
    (examineQueue s).records = s.records ∧ (examineQueue s).settings = s.settings ∧
    (examineQueue s).freeCount = s.freeCount ∧ (examineQueue s).pending = s.pending ∧
    (∀ c, ((examineQueue s).berth c).inService = (s.berth c).inService) ∧
    (∀ c, ((examineQueue s).berth c).stage = (s.berth c).stage) ∧
    (∀ c, ((examineQueue s).berth c).holder = (s.berth c).holder) ∧
    (∀ c, ((examineQueue s).berth c).pendingSince = (s.berth c).pendingSince) ∧
    (∀ c, ((examineQueue s).berth c).agreement = (s.berth c).agreement) ∧
    (∀ c, ((examineQueue s).berth c).causes = (s.berth c).causes) ∧
    (∀ c, ((examineQueue s).berth c).status = (s.berth c).status) ∧
    (∀ c, ((examineQueue s).berth c).summaryReserved = (s.berth c).summaryReserved) ∧
    (∀ c, ((examineQueue s).berth c).linkLost = (s.berth c).linkLost) ∧
    (∀ c, ((examineQueue s).berth c).syncHold = (s.berth c).syncHold) ∧
    (∀ c, ((examineQueue s).berth c).separationCause = (s.berth c).separationCause) ∧
    (∀ c, ((examineQueue s).berth c).qualification = (s.berth c).qualification) ∧
    (∀ c, ((examineQueue s).sec c).emergencyStop = (s.sec c).emergencyStop) ∧
    (∀ c, ((examineQueue s).sec c).plugPilot = (s.sec c).plugPilot) ∧
    (∀ c, ((examineQueue s).sec c).outletAux = (s.sec c).outletAux) ∧
    (∀ c, ((examineQueue s).sec c).couplerAux = (s.sec c).couplerAux) ∧
    (∀ c, ((examineQueue s).sec c).earthResult = (s.sec c).earthResult) ∧
    (∀ c, ((examineQueue s).sec c).deferrals = (s.sec c).deferrals) ∧
    (∀ c, ((examineQueue s).sec c).schedule = (s.sec c).schedule) ∧ (∀ c, (examineQueue s).unit c = s.unit c) ∧
    (∀ c, (examineQueue s).reference c = s.reference c) ∧ (∀ c, (examineQueue s).sync c = s.sync c) ∧
    (∀ c, (examineQueue s).meter c = s.meter c) := by
  simp [examineQueue]

/-- What `enterReady` leaves alone. -/
@[simp] theorem enterReady_frame (m : ModuleId) (s : State) :
    (enterReady m s).now = s.now ∧ (enterReady m s).resetHeld = s.resetHeld ∧ (enterReady m s).links = s.links ∧
    (enterReady m s).units = s.units ∧ (enterReady m s).references = s.references ∧
    (enterReady m s).capture = s.capture ∧ (enterReady m s).port = s.port ∧ (enterReady m s).syncs = s.syncs ∧
    (enterReady m s).meters = s.meters ∧ (enterReady m s).tariff = s.tariff ∧
    (enterReady m s).records = s.records ∧ (enterReady m s).settings = s.settings ∧
    (enterReady m s).freeCount = s.freeCount ∧ (enterReady m s).pending = s.pending ∧
    (∀ c, ((enterReady m s).berth c).inService = (s.berth c).inService) ∧
    (∀ c, ((enterReady m s).berth c).stage = (s.berth c).stage) ∧
    (∀ c, ((enterReady m s).berth c).holder = (s.berth c).holder) ∧
    (∀ c, ((enterReady m s).berth c).pendingSince = (s.berth c).pendingSince) ∧
    (∀ c, ((enterReady m s).berth c).agreement = (s.berth c).agreement) ∧
    (∀ c, ((enterReady m s).berth c).causes = (s.berth c).causes) ∧
    (∀ c, ((enterReady m s).berth c).status = (s.berth c).status) ∧
    (∀ c, ((enterReady m s).berth c).summaryReserved = (s.berth c).summaryReserved) ∧
    (∀ c, ((enterReady m s).berth c).linkLost = (s.berth c).linkLost) ∧
    (∀ c, ((enterReady m s).berth c).syncHold = (s.berth c).syncHold) ∧
    (∀ c, ((enterReady m s).berth c).separationCause = (s.berth c).separationCause) ∧
    (∀ c, ((enterReady m s).berth c).qualification = (s.berth c).qualification) ∧
    (∀ c, ((enterReady m s).sec c).emergencyStop = (s.sec c).emergencyStop) ∧
    (∀ c, ((enterReady m s).sec c).plugPilot = (s.sec c).plugPilot) ∧
    (∀ c, ((enterReady m s).sec c).outletAux = (s.sec c).outletAux) ∧
    (∀ c, ((enterReady m s).sec c).couplerAux = (s.sec c).couplerAux) ∧
    (∀ c, ((enterReady m s).sec c).earthResult = (s.sec c).earthResult) ∧
    (∀ c, ((enterReady m s).sec c).deferrals = (s.sec c).deferrals) ∧
    (∀ c, ((enterReady m s).sec c).schedule = (s.sec c).schedule) ∧ (∀ c, (enterReady m s).unit c = s.unit c) ∧
    (∀ c, (enterReady m s).reference c = s.reference c) ∧ (∀ c, (enterReady m s).sync c = s.sync c) ∧
    (∀ c, (enterReady m s).meter c = s.meter c) := by
  simp [enterReady]

/-- What `enterDark` leaves alone. -/
@[simp] theorem enterDark_frame (m : ModuleId) (s : State) :
    (enterDark m s).now = s.now ∧ (enterDark m s).resetHeld = s.resetHeld ∧ (enterDark m s).links = s.links ∧
    (enterDark m s).units = s.units ∧ (enterDark m s).references = s.references ∧
    (enterDark m s).capture = s.capture ∧ (enterDark m s).port = s.port ∧ (enterDark m s).syncs = s.syncs ∧
    (enterDark m s).meters = s.meters ∧ (enterDark m s).tariff = s.tariff ∧
    (enterDark m s).records = s.records ∧ (enterDark m s).settings = s.settings ∧
    (enterDark m s).freeCount = s.freeCount ∧ (enterDark m s).pending = s.pending ∧
    (∀ c, ((enterDark m s).berth c).inService = (s.berth c).inService) ∧
    (∀ c, ((enterDark m s).berth c).stage = (s.berth c).stage) ∧
    (∀ c, ((enterDark m s).berth c).holder = (s.berth c).holder) ∧
    (∀ c, ((enterDark m s).berth c).pendingSince = (s.berth c).pendingSince) ∧
    (∀ c, ((enterDark m s).berth c).agreement = (s.berth c).agreement) ∧
    (∀ c, ((enterDark m s).berth c).causes = (s.berth c).causes) ∧
    (∀ c, ((enterDark m s).berth c).status = (s.berth c).status) ∧
    (∀ c, ((enterDark m s).berth c).summaryReserved = (s.berth c).summaryReserved) ∧
    (∀ c, ((enterDark m s).berth c).linkLost = (s.berth c).linkLost) ∧
    (∀ c, ((enterDark m s).berth c).syncHold = (s.berth c).syncHold) ∧
    (∀ c, ((enterDark m s).berth c).separationCause = (s.berth c).separationCause) ∧
    (∀ c, ((enterDark m s).berth c).qualification = (s.berth c).qualification) ∧
    (∀ c, ((enterDark m s).sec c).emergencyStop = (s.sec c).emergencyStop) ∧
    (∀ c, ((enterDark m s).sec c).plugPilot = (s.sec c).plugPilot) ∧
    (∀ c, ((enterDark m s).sec c).outletAux = (s.sec c).outletAux) ∧
    (∀ c, ((enterDark m s).sec c).couplerAux = (s.sec c).couplerAux) ∧
    (∀ c, ((enterDark m s).sec c).earthResult = (s.sec c).earthResult) ∧
    (∀ c, ((enterDark m s).sec c).deferrals = (s.sec c).deferrals) ∧
    (∀ c, ((enterDark m s).sec c).schedule = (s.sec c).schedule) ∧ (∀ c, (enterDark m s).unit c = s.unit c) ∧
    (∀ c, (enterDark m s).reference c = s.reference c) ∧ (∀ c, (enterDark m s).sync c = s.sync c) ∧
    (∀ c, (enterDark m s).meter c = s.meter c) := by
  simp [enterDark]

/-- What `enterDraining` leaves alone. -/
@[simp] theorem enterDraining_frame (b : Berth) (m : ModuleId) (s : State) :
    (enterDraining b m s).now = s.now ∧ (enterDraining b m s).resetHeld = s.resetHeld ∧
    (enterDraining b m s).links = s.links ∧ (enterDraining b m s).units = s.units ∧
    (enterDraining b m s).references = s.references ∧ (enterDraining b m s).capture = s.capture ∧
    (enterDraining b m s).port = s.port ∧ (enterDraining b m s).syncs = s.syncs ∧
    (enterDraining b m s).sections = s.sections ∧ (enterDraining b m s).meters = s.meters ∧
    (enterDraining b m s).tariff = s.tariff ∧ (enterDraining b m s).records = s.records ∧
    (enterDraining b m s).settings = s.settings ∧ (enterDraining b m s).freeCount = s.freeCount ∧
    (enterDraining b m s).pending = s.pending ∧
    (∀ c, ((enterDraining b m s).berth c).inService = (s.berth c).inService) ∧
    (∀ c, ((enterDraining b m s).berth c).stage = (s.berth c).stage) ∧
    (∀ c, ((enterDraining b m s).berth c).holder = (s.berth c).holder) ∧
    (∀ c, ((enterDraining b m s).berth c).pendingSince = (s.berth c).pendingSince) ∧
    (∀ c, ((enterDraining b m s).berth c).agreement = (s.berth c).agreement) ∧
    (∀ c, ((enterDraining b m s).berth c).causes = (s.berth c).causes) ∧
    (∀ c, ((enterDraining b m s).berth c).status = (s.berth c).status) ∧
    (∀ c, ((enterDraining b m s).berth c).summaryReserved = (s.berth c).summaryReserved) ∧
    (∀ c, ((enterDraining b m s).berth c).linkLost = (s.berth c).linkLost) ∧
    (∀ c, ((enterDraining b m s).berth c).syncHold = (s.berth c).syncHold) ∧
    (∀ c, ((enterDraining b m s).berth c).separationCause = (s.berth c).separationCause) ∧
    (∀ c, ((enterDraining b m s).berth c).stageTimer = (s.berth c).stageTimer) ∧
    (∀ c, ((enterDraining b m s).berth c).qualification = (s.berth c).qualification) ∧
    (∀ c, (enterDraining b m s).sec c = s.sec c) ∧ (∀ c, (enterDraining b m s).unit c = s.unit c) ∧
    (∀ c, (enterDraining b m s).reference c = s.reference c) ∧ (∀ c, (enterDraining b m s).sync c = s.sync c) ∧
    (∀ c, (enterDraining b m s).meter c = s.meter c) := by
  simp [enterDraining]

/-- What `moduleLost` leaves alone. -/
@[simp] theorem moduleLost_frame (b : Berth) (s : State) :
    (moduleLost b s).now = s.now ∧ (moduleLost b s).resetHeld = s.resetHeld ∧ (moduleLost b s).units = s.units ∧
    (moduleLost b s).references = s.references ∧ (moduleLost b s).capture = s.capture ∧
    (moduleLost b s).port = s.port ∧ (moduleLost b s).syncs = s.syncs ∧ (moduleLost b s).meters = s.meters ∧
    (moduleLost b s).tariff = s.tariff ∧ (moduleLost b s).records = s.records ∧
    (moduleLost b s).settings = s.settings ∧ (moduleLost b s).freeCount = s.freeCount ∧
    (moduleLost b s).pending = s.pending ∧ (∀ c, ((moduleLost b s).berth c).inService = (s.berth c).inService) ∧
    (∀ c, ((moduleLost b s).berth c).stage = (s.berth c).stage) ∧
    (∀ c, ((moduleLost b s).berth c).holder = (s.berth c).holder) ∧
    (∀ c, ((moduleLost b s).berth c).pendingSince = (s.berth c).pendingSince) ∧
    (∀ c, ((moduleLost b s).berth c).agreement = (s.berth c).agreement) ∧
    (∀ c, ((moduleLost b s).berth c).causes = (s.berth c).causes) ∧
    (∀ c, ((moduleLost b s).berth c).status = (s.berth c).status) ∧
    (∀ c, ((moduleLost b s).berth c).summaryReserved = (s.berth c).summaryReserved) ∧
    (∀ c, ((moduleLost b s).berth c).linkLost = (s.berth c).linkLost) ∧
    (∀ c, ((moduleLost b s).berth c).syncHold = (s.berth c).syncHold) ∧
    (∀ c, ((moduleLost b s).berth c).separationCause = (s.berth c).separationCause) ∧
    (∀ c, ((moduleLost b s).berth c).qualification = (s.berth c).qualification) ∧
    (∀ c, ((moduleLost b s).sec c).emergencyStop = (s.sec c).emergencyStop) ∧
    (∀ c, ((moduleLost b s).sec c).plugPilot = (s.sec c).plugPilot) ∧
    (∀ c, ((moduleLost b s).sec c).outletAux = (s.sec c).outletAux) ∧
    (∀ c, ((moduleLost b s).sec c).couplerAux = (s.sec c).couplerAux) ∧
    (∀ c, ((moduleLost b s).sec c).earthResult = (s.sec c).earthResult) ∧
    (∀ c, ((moduleLost b s).sec c).deferrals = (s.sec c).deferrals) ∧
    (∀ c, ((moduleLost b s).sec c).schedule = (s.sec c).schedule) ∧ (∀ c, (moduleLost b s).unit c = s.unit c) ∧
    (∀ c, (moduleLost b s).reference c = s.reference c) ∧ (∀ c, (moduleLost b s).sync c = s.sync c) ∧
    (∀ c, (moduleLost b s).meter c = s.meter c) ∧ (∀ k, ((moduleLost b s).links.get k).up = (s.links.get k).up) := by
  unfold moduleLost; (try dsimp only); (repeat' split) <;> simp

/-- What `enterFaulted` leaves alone. -/
@[simp] theorem enterFaulted_frame (m : ModuleId) (x : FaultCause) (s : State) :
    (enterFaulted m x s).now = s.now ∧ (enterFaulted m x s).resetHeld = s.resetHeld ∧
    (enterFaulted m x s).units = s.units ∧ (enterFaulted m x s).references = s.references ∧
    (enterFaulted m x s).capture = s.capture ∧ (enterFaulted m x s).port = s.port ∧
    (enterFaulted m x s).syncs = s.syncs ∧ (enterFaulted m x s).meters = s.meters ∧
    (enterFaulted m x s).tariff = s.tariff ∧ (enterFaulted m x s).records = s.records ∧
    (enterFaulted m x s).settings = s.settings ∧ (enterFaulted m x s).freeCount = s.freeCount ∧
    (enterFaulted m x s).pending = s.pending ∧
    (∀ c, ((enterFaulted m x s).berth c).inService = (s.berth c).inService) ∧
    (∀ c, ((enterFaulted m x s).berth c).stage = (s.berth c).stage) ∧
    (∀ c, ((enterFaulted m x s).berth c).holder = (s.berth c).holder) ∧
    (∀ c, ((enterFaulted m x s).berth c).pendingSince = (s.berth c).pendingSince) ∧
    (∀ c, ((enterFaulted m x s).berth c).agreement = (s.berth c).agreement) ∧
    (∀ c, ((enterFaulted m x s).berth c).causes = (s.berth c).causes) ∧
    (∀ c, ((enterFaulted m x s).berth c).status = (s.berth c).status) ∧
    (∀ c, ((enterFaulted m x s).berth c).summaryReserved = (s.berth c).summaryReserved) ∧
    (∀ c, ((enterFaulted m x s).berth c).linkLost = (s.berth c).linkLost) ∧
    (∀ c, ((enterFaulted m x s).berth c).syncHold = (s.berth c).syncHold) ∧
    (∀ c, ((enterFaulted m x s).berth c).separationCause = (s.berth c).separationCause) ∧
    (∀ c, ((enterFaulted m x s).berth c).qualification = (s.berth c).qualification) ∧
    (∀ c, ((enterFaulted m x s).sec c).emergencyStop = (s.sec c).emergencyStop) ∧
    (∀ c, ((enterFaulted m x s).sec c).plugPilot = (s.sec c).plugPilot) ∧
    (∀ c, ((enterFaulted m x s).sec c).outletAux = (s.sec c).outletAux) ∧
    (∀ c, ((enterFaulted m x s).sec c).couplerAux = (s.sec c).couplerAux) ∧
    (∀ c, ((enterFaulted m x s).sec c).earthResult = (s.sec c).earthResult) ∧
    (∀ c, ((enterFaulted m x s).sec c).deferrals = (s.sec c).deferrals) ∧
    (∀ c, ((enterFaulted m x s).sec c).schedule = (s.sec c).schedule) ∧
    (∀ c, (enterFaulted m x s).unit c = s.unit c) ∧ (∀ c, (enterFaulted m x s).reference c = s.reference c) ∧
    (∀ c, (enterFaulted m x s).sync c = s.sync c) ∧ (∀ c, (enterFaulted m x s).meter c = s.meter c) ∧
    (∀ k, ((enterFaulted m x s).links.get k).up = (s.links.get k).up) := by
  unfold enterFaulted; (try dsimp only); (repeat' split) <;> simp

/-- What `addNewEntry` leaves alone. -/
@[simp] theorem addNewEntry_frame (b : Berth) (n : Nat) (s : State) :
    (addNewEntry b n s).now = s.now ∧ (addNewEntry b n s).resetHeld = s.resetHeld ∧
    (addNewEntry b n s).links = s.links ∧ (addNewEntry b n s).units = s.units ∧
    (addNewEntry b n s).references = s.references ∧ (addNewEntry b n s).capture = s.capture ∧
    (addNewEntry b n s).port = s.port ∧ (addNewEntry b n s).syncs = s.syncs ∧
    (addNewEntry b n s).meters = s.meters ∧ (addNewEntry b n s).tariff = s.tariff ∧
    (addNewEntry b n s).records = s.records ∧ (addNewEntry b n s).settings = s.settings ∧
    (addNewEntry b n s).freeCount = s.freeCount ∧ (addNewEntry b n s).pending = s.pending ∧
    (∀ c, ((addNewEntry b n s).berth c).inService = (s.berth c).inService) ∧
    (∀ c, ((addNewEntry b n s).berth c).stage = (s.berth c).stage) ∧
    (∀ c, ((addNewEntry b n s).berth c).holder = (s.berth c).holder) ∧
    (∀ c, ((addNewEntry b n s).berth c).pendingSince = (s.berth c).pendingSince) ∧
    (∀ c, ((addNewEntry b n s).berth c).agreement = (s.berth c).agreement) ∧
    (∀ c, ((addNewEntry b n s).berth c).causes = (s.berth c).causes) ∧
    (∀ c, ((addNewEntry b n s).berth c).status = (s.berth c).status) ∧
    (∀ c, ((addNewEntry b n s).berth c).summaryReserved = (s.berth c).summaryReserved) ∧
    (∀ c, ((addNewEntry b n s).berth c).linkLost = (s.berth c).linkLost) ∧
    (∀ c, ((addNewEntry b n s).berth c).syncHold = (s.berth c).syncHold) ∧
    (∀ c, ((addNewEntry b n s).berth c).separationCause = (s.berth c).separationCause) ∧
    (∀ c, ((addNewEntry b n s).berth c).qualification = (s.berth c).qualification) ∧
    (∀ c, ((addNewEntry b n s).sec c).emergencyStop = (s.sec c).emergencyStop) ∧
    (∀ c, ((addNewEntry b n s).sec c).plugPilot = (s.sec c).plugPilot) ∧
    (∀ c, ((addNewEntry b n s).sec c).outletAux = (s.sec c).outletAux) ∧
    (∀ c, ((addNewEntry b n s).sec c).couplerAux = (s.sec c).couplerAux) ∧
    (∀ c, ((addNewEntry b n s).sec c).earthResult = (s.sec c).earthResult) ∧
    (∀ c, ((addNewEntry b n s).sec c).deferrals = (s.sec c).deferrals) ∧
    (∀ c, ((addNewEntry b n s).sec c).schedule = (s.sec c).schedule) ∧
    (∀ c, (addNewEntry b n s).unit c = s.unit c) ∧ (∀ c, (addNewEntry b n s).reference c = s.reference c) ∧
    (∀ c, (addNewEntry b n s).sync c = s.sync c) ∧ (∀ c, (addNewEntry b n s).meter c = s.meter c) := by
  simp [addNewEntry]

/-- What `removeEntry` leaves alone. -/
@[simp] theorem removeEntry_frame (b : Berth) (s : State) :
    (removeEntry b s).now = s.now ∧ (removeEntry b s).resetHeld = s.resetHeld ∧
    (removeEntry b s).links = s.links ∧ (removeEntry b s).units = s.units ∧
    (removeEntry b s).references = s.references ∧ (removeEntry b s).capture = s.capture ∧
    (removeEntry b s).port = s.port ∧ (removeEntry b s).syncs = s.syncs ∧ (removeEntry b s).meters = s.meters ∧
    (removeEntry b s).tariff = s.tariff ∧ (removeEntry b s).records = s.records ∧
    (removeEntry b s).settings = s.settings ∧ (removeEntry b s).freeCount = s.freeCount ∧
    (removeEntry b s).pending = s.pending ∧
    (∀ c, ((removeEntry b s).berth c).inService = (s.berth c).inService) ∧
    (∀ c, ((removeEntry b s).berth c).stage = (s.berth c).stage) ∧
    (∀ c, ((removeEntry b s).berth c).holder = (s.berth c).holder) ∧
    (∀ c, ((removeEntry b s).berth c).pendingSince = (s.berth c).pendingSince) ∧
    (∀ c, ((removeEntry b s).berth c).agreement = (s.berth c).agreement) ∧
    (∀ c, ((removeEntry b s).berth c).causes = (s.berth c).causes) ∧
    (∀ c, ((removeEntry b s).berth c).status = (s.berth c).status) ∧
    (∀ c, ((removeEntry b s).berth c).summaryReserved = (s.berth c).summaryReserved) ∧
    (∀ c, ((removeEntry b s).berth c).linkLost = (s.berth c).linkLost) ∧
    (∀ c, ((removeEntry b s).berth c).syncHold = (s.berth c).syncHold) ∧
    (∀ c, ((removeEntry b s).berth c).separationCause = (s.berth c).separationCause) ∧
    (∀ c, ((removeEntry b s).berth c).qualification = (s.berth c).qualification) ∧
    (∀ c, ((removeEntry b s).sec c).emergencyStop = (s.sec c).emergencyStop) ∧
    (∀ c, ((removeEntry b s).sec c).plugPilot = (s.sec c).plugPilot) ∧
    (∀ c, ((removeEntry b s).sec c).outletAux = (s.sec c).outletAux) ∧
    (∀ c, ((removeEntry b s).sec c).couplerAux = (s.sec c).couplerAux) ∧
    (∀ c, ((removeEntry b s).sec c).earthResult = (s.sec c).earthResult) ∧
    (∀ c, ((removeEntry b s).sec c).deferrals = (s.sec c).deferrals) ∧
    (∀ c, ((removeEntry b s).sec c).schedule = (s.sec c).schedule) ∧
    (∀ c, (removeEntry b s).unit c = s.unit c) ∧ (∀ c, (removeEntry b s).reference c = s.reference c) ∧
    (∀ c, (removeEntry b s).sync c = s.sync c) ∧ (∀ c, (removeEntry b s).meter c = s.meter c) := by
  unfold removeEntry; (try dsimp only); (repeat' split) <;> simp

/-- What `withdrawOne` leaves alone. -/
@[simp] theorem withdrawOne_frame (m : ModuleId) (s : State) :
    (withdrawOne m s).now = s.now ∧ (withdrawOne m s).resetHeld = s.resetHeld ∧
    (withdrawOne m s).links = s.links ∧ (withdrawOne m s).units = s.units ∧
    (withdrawOne m s).references = s.references ∧ (withdrawOne m s).capture = s.capture ∧
    (withdrawOne m s).port = s.port ∧ (withdrawOne m s).syncs = s.syncs ∧
    (withdrawOne m s).meters = s.meters ∧ (withdrawOne m s).tariff = s.tariff ∧
    (withdrawOne m s).records = s.records ∧ (withdrawOne m s).settings = s.settings ∧
    (withdrawOne m s).freeCount = s.freeCount ∧ (withdrawOne m s).pending = s.pending ∧
    (∀ c, ((withdrawOne m s).berth c).inService = (s.berth c).inService) ∧
    (∀ c, ((withdrawOne m s).berth c).stage = (s.berth c).stage) ∧
    (∀ c, ((withdrawOne m s).berth c).holder = (s.berth c).holder) ∧
    (∀ c, ((withdrawOne m s).berth c).pendingSince = (s.berth c).pendingSince) ∧
    (∀ c, ((withdrawOne m s).berth c).agreement = (s.berth c).agreement) ∧
    (∀ c, ((withdrawOne m s).berth c).causes = (s.berth c).causes) ∧
    (∀ c, ((withdrawOne m s).berth c).status = (s.berth c).status) ∧
    (∀ c, ((withdrawOne m s).berth c).summaryReserved = (s.berth c).summaryReserved) ∧
    (∀ c, ((withdrawOne m s).berth c).linkLost = (s.berth c).linkLost) ∧
    (∀ c, ((withdrawOne m s).berth c).syncHold = (s.berth c).syncHold) ∧
    (∀ c, ((withdrawOne m s).berth c).separationCause = (s.berth c).separationCause) ∧
    (∀ c, ((withdrawOne m s).berth c).qualification = (s.berth c).qualification) ∧
    (∀ c, ((withdrawOne m s).sec c).emergencyStop = (s.sec c).emergencyStop) ∧
    (∀ c, ((withdrawOne m s).sec c).plugPilot = (s.sec c).plugPilot) ∧
    (∀ c, ((withdrawOne m s).sec c).outletAux = (s.sec c).outletAux) ∧
    (∀ c, ((withdrawOne m s).sec c).couplerAux = (s.sec c).couplerAux) ∧
    (∀ c, ((withdrawOne m s).sec c).earthResult = (s.sec c).earthResult) ∧
    (∀ c, ((withdrawOne m s).sec c).deferrals = (s.sec c).deferrals) ∧
    (∀ c, ((withdrawOne m s).sec c).schedule = (s.sec c).schedule) ∧
    (∀ c, (withdrawOne m s).unit c = s.unit c) ∧ (∀ c, (withdrawOne m s).reference c = s.reference c) ∧
    (∀ c, (withdrawOne m s).sync c = s.sync c) ∧ (∀ c, (withdrawOne m s).meter c = s.meter c) := by
  simp [withdrawOne]

/-- Listed modules leave the charge-start list one after another. -/
def withdrawAll (l : List ModuleId) (s : State) : State := l.foldl (fun (s : State) m => withdrawOne m s) s

/-- What `withdrawAll` leaves alone. -/
@[simp] theorem withdrawAll_frame (l : List ModuleId) (s : State) :
    (withdrawAll l s).now = s.now ∧ (withdrawAll l s).resetHeld = s.resetHeld ∧
    (withdrawAll l s).links = s.links ∧ (withdrawAll l s).units = s.units ∧
    (withdrawAll l s).references = s.references ∧ (withdrawAll l s).capture = s.capture ∧
    (withdrawAll l s).port = s.port ∧ (withdrawAll l s).syncs = s.syncs ∧
    (withdrawAll l s).meters = s.meters ∧ (withdrawAll l s).tariff = s.tariff ∧
    (withdrawAll l s).records = s.records ∧ (withdrawAll l s).settings = s.settings ∧
    (withdrawAll l s).freeCount = s.freeCount ∧ (withdrawAll l s).pending = s.pending ∧
    (∀ c, ((withdrawAll l s).berth c).inService = (s.berth c).inService) ∧
    (∀ c, ((withdrawAll l s).berth c).stage = (s.berth c).stage) ∧
    (∀ c, ((withdrawAll l s).berth c).holder = (s.berth c).holder) ∧
    (∀ c, ((withdrawAll l s).berth c).pendingSince = (s.berth c).pendingSince) ∧
    (∀ c, ((withdrawAll l s).berth c).agreement = (s.berth c).agreement) ∧
    (∀ c, ((withdrawAll l s).berth c).causes = (s.berth c).causes) ∧
    (∀ c, ((withdrawAll l s).berth c).status = (s.berth c).status) ∧
    (∀ c, ((withdrawAll l s).berth c).summaryReserved = (s.berth c).summaryReserved) ∧
    (∀ c, ((withdrawAll l s).berth c).linkLost = (s.berth c).linkLost) ∧
    (∀ c, ((withdrawAll l s).berth c).syncHold = (s.berth c).syncHold) ∧
    (∀ c, ((withdrawAll l s).berth c).separationCause = (s.berth c).separationCause) ∧
    (∀ c, ((withdrawAll l s).berth c).qualification = (s.berth c).qualification) ∧
    (∀ c, ((withdrawAll l s).sec c).emergencyStop = (s.sec c).emergencyStop) ∧
    (∀ c, ((withdrawAll l s).sec c).plugPilot = (s.sec c).plugPilot) ∧
    (∀ c, ((withdrawAll l s).sec c).outletAux = (s.sec c).outletAux) ∧
    (∀ c, ((withdrawAll l s).sec c).couplerAux = (s.sec c).couplerAux) ∧
    (∀ c, ((withdrawAll l s).sec c).earthResult = (s.sec c).earthResult) ∧
    (∀ c, ((withdrawAll l s).sec c).deferrals = (s.sec c).deferrals) ∧
    (∀ c, ((withdrawAll l s).sec c).schedule = (s.sec c).schedule) ∧
    (∀ c, (withdrawAll l s).unit c = s.unit c) ∧ (∀ c, (withdrawAll l s).reference c = s.reference c) ∧
    (∀ c, (withdrawAll l s).sync c = s.sync c) ∧ (∀ c, (withdrawAll l s).meter c = s.meter c) := by
  unfold withdrawAll
  induction l generalizing s with
  | nil => simp
  | cons m rest ih =>
    rw [List.foldl_cons]
    simp [ih]

/-- What `withdrawWaiting` leaves alone. -/
@[simp] theorem withdrawWaiting_frame (b : Berth) (s : State) :
    (withdrawWaiting b s).now = s.now ∧ (withdrawWaiting b s).resetHeld = s.resetHeld ∧
    (withdrawWaiting b s).links = s.links ∧ (withdrawWaiting b s).units = s.units ∧
    (withdrawWaiting b s).references = s.references ∧ (withdrawWaiting b s).capture = s.capture ∧
    (withdrawWaiting b s).port = s.port ∧ (withdrawWaiting b s).syncs = s.syncs ∧
    (withdrawWaiting b s).meters = s.meters ∧ (withdrawWaiting b s).tariff = s.tariff ∧
    (withdrawWaiting b s).records = s.records ∧ (withdrawWaiting b s).settings = s.settings ∧
    (withdrawWaiting b s).freeCount = s.freeCount ∧ (withdrawWaiting b s).pending = s.pending ∧
    (∀ c, ((withdrawWaiting b s).berth c).inService = (s.berth c).inService) ∧
    (∀ c, ((withdrawWaiting b s).berth c).stage = (s.berth c).stage) ∧
    (∀ c, ((withdrawWaiting b s).berth c).holder = (s.berth c).holder) ∧
    (∀ c, ((withdrawWaiting b s).berth c).pendingSince = (s.berth c).pendingSince) ∧
    (∀ c, ((withdrawWaiting b s).berth c).agreement = (s.berth c).agreement) ∧
    (∀ c, ((withdrawWaiting b s).berth c).causes = (s.berth c).causes) ∧
    (∀ c, ((withdrawWaiting b s).berth c).status = (s.berth c).status) ∧
    (∀ c, ((withdrawWaiting b s).berth c).summaryReserved = (s.berth c).summaryReserved) ∧
    (∀ c, ((withdrawWaiting b s).berth c).linkLost = (s.berth c).linkLost) ∧
    (∀ c, ((withdrawWaiting b s).berth c).syncHold = (s.berth c).syncHold) ∧
    (∀ c, ((withdrawWaiting b s).berth c).separationCause = (s.berth c).separationCause) ∧
    (∀ c, ((withdrawWaiting b s).berth c).qualification = (s.berth c).qualification) ∧
    (∀ c, ((withdrawWaiting b s).sec c).emergencyStop = (s.sec c).emergencyStop) ∧
    (∀ c, ((withdrawWaiting b s).sec c).plugPilot = (s.sec c).plugPilot) ∧
    (∀ c, ((withdrawWaiting b s).sec c).outletAux = (s.sec c).outletAux) ∧
    (∀ c, ((withdrawWaiting b s).sec c).couplerAux = (s.sec c).couplerAux) ∧
    (∀ c, ((withdrawWaiting b s).sec c).earthResult = (s.sec c).earthResult) ∧
    (∀ c, ((withdrawWaiting b s).sec c).deferrals = (s.sec c).deferrals) ∧
    (∀ c, ((withdrawWaiting b s).sec c).schedule = (s.sec c).schedule) ∧
    (∀ c, (withdrawWaiting b s).unit c = s.unit c) ∧ (∀ c, (withdrawWaiting b s).reference c = s.reference c) ∧
    (∀ c, (withdrawWaiting b s).sync c = s.sync c) ∧ (∀ c, (withdrawWaiting b s).meter c = s.meter c) := by
  have e : withdrawWaiting b s =
      let mine := s.pool.chargeList.filter fun m => decide ((s.module m).berth = some b)
      if mine.isEmpty then s else tryChargeStart (withdrawAll mine s) := rfl
  rw [e]; dsimp only; split <;> simp

/-- What `withdrawCharging` leaves alone. -/
@[simp] theorem withdrawCharging_frame (b : Berth) (s : State) :
    (withdrawCharging b s).now = s.now ∧ (withdrawCharging b s).resetHeld = s.resetHeld ∧
    (withdrawCharging b s).links = s.links ∧ (withdrawCharging b s).berths = s.berths ∧
    (withdrawCharging b s).units = s.units ∧ (withdrawCharging b s).references = s.references ∧
    (withdrawCharging b s).capture = s.capture ∧ (withdrawCharging b s).port = s.port ∧
    (withdrawCharging b s).syncs = s.syncs ∧ (withdrawCharging b s).ramps = s.ramps ∧
    (withdrawCharging b s).budget = s.budget ∧ (withdrawCharging b s).sections = s.sections ∧
    (withdrawCharging b s).meters = s.meters ∧ (withdrawCharging b s).tariff = s.tariff ∧
    (withdrawCharging b s).records = s.records ∧ (withdrawCharging b s).settings = s.settings ∧
    (withdrawCharging b s).sent = s.sent ∧ (withdrawCharging b s).freeCount = s.freeCount ∧
    (withdrawCharging b s).pending = s.pending ∧ (∀ c, (withdrawCharging b s).berth c = s.berth c) ∧
    (∀ c, (withdrawCharging b s).sec c = s.sec c) ∧ (∀ c, (withdrawCharging b s).unit c = s.unit c) ∧
    (∀ c, (withdrawCharging b s).reference c = s.reference c) ∧
    (∀ c, (withdrawCharging b s).sync c = s.sync c) ∧ (∀ c, (withdrawCharging b s).ramp c = s.ramp c) ∧
    (∀ c, (withdrawCharging b s).meter c = s.meter c) := by
  unfold withdrawCharging
  exact ⟨foldl_keeps State.now _ (by intros; split <;> simp) _ _,
    foldl_keeps State.resetHeld _ (by intros; split <;> simp) _ _,
    foldl_keeps State.links _ (by intros; split <;> simp) _ _,
    foldl_keeps State.berths _ (by intros; split <;> simp) _ _,
    foldl_keeps State.units _ (by intros; split <;> simp) _ _,
    foldl_keeps State.references _ (by intros; split <;> simp) _ _,
    foldl_keeps State.capture _ (by intros; split <;> simp) _ _,
    foldl_keeps State.port _ (by intros; split <;> simp) _ _,
    foldl_keeps State.syncs _ (by intros; split <;> simp) _ _,
    foldl_keeps State.ramps _ (by intros; split <;> simp) _ _,
    foldl_keeps State.budget _ (by intros; split <;> simp) _ _,
    foldl_keeps State.sections _ (by intros; split <;> simp) _ _,
    foldl_keeps State.meters _ (by intros; split <;> simp) _ _,
    foldl_keeps State.tariff _ (by intros; split <;> simp) _ _,
    foldl_keeps State.records _ (by intros; split <;> simp) _ _,
    foldl_keeps State.settings _ (by intros; split <;> simp) _ _,
    foldl_keeps State.sent _ (by intros; split <;> simp) _ _,
    foldl_keeps State.freeCount _ (by intros; split <;> simp) _ _,
    foldl_keeps State.pending _ (by intros; split <;> simp) _ _,
    fun c => foldl_keeps (fun s => s.berth c) _ (by intros; split <;> simp) _ _,
    fun c => foldl_keeps (fun s => s.sec c) _ (by intros; split <;> simp) _ _,
    fun c => foldl_keeps (fun s => s.unit c) _ (by intros; split <;> simp) _ _,
    fun c => foldl_keeps (fun s => s.reference c) _ (by intros; split <;> simp) _ _,
    fun c => foldl_keeps (fun s => s.sync c) _ (by intros; split <;> simp) _ _,
    fun c => foldl_keeps (fun s => s.ramp c) _ (by intros; split <;> simp) _ _,
    fun c => foldl_keeps (fun s => s.meter c) _ (by intros; split <;> simp) _ _⟩

/-- A berth's listed modules are sent to DRAINING. -/
def drainAll (b : Berth) (l : List ModuleId) (s : State) : State := l.foldl (fun s m => enterDraining b m s) s

/-- What `drainAll` leaves alone. -/
@[simp] theorem drainAll_frame (b : Berth) (l : List ModuleId) (s : State) :
    (drainAll b l s).now = s.now ∧ (drainAll b l s).resetHeld = s.resetHeld ∧ (drainAll b l s).links = s.links ∧
    (drainAll b l s).units = s.units ∧ (drainAll b l s).references = s.references ∧
    (drainAll b l s).capture = s.capture ∧ (drainAll b l s).port = s.port ∧ (drainAll b l s).syncs = s.syncs ∧
    (drainAll b l s).sections = s.sections ∧ (drainAll b l s).meters = s.meters ∧
    (drainAll b l s).tariff = s.tariff ∧ (drainAll b l s).records = s.records ∧
    (drainAll b l s).settings = s.settings ∧ (drainAll b l s).freeCount = s.freeCount ∧
    (drainAll b l s).pending = s.pending ∧ (∀ c, ((drainAll b l s).berth c).inService = (s.berth c).inService) ∧
    (∀ c, ((drainAll b l s).berth c).stage = (s.berth c).stage) ∧
    (∀ c, ((drainAll b l s).berth c).holder = (s.berth c).holder) ∧
    (∀ c, ((drainAll b l s).berth c).pendingSince = (s.berth c).pendingSince) ∧
    (∀ c, ((drainAll b l s).berth c).agreement = (s.berth c).agreement) ∧
    (∀ c, ((drainAll b l s).berth c).causes = (s.berth c).causes) ∧
    (∀ c, ((drainAll b l s).berth c).status = (s.berth c).status) ∧
    (∀ c, ((drainAll b l s).berth c).summaryReserved = (s.berth c).summaryReserved) ∧
    (∀ c, ((drainAll b l s).berth c).linkLost = (s.berth c).linkLost) ∧
    (∀ c, ((drainAll b l s).berth c).syncHold = (s.berth c).syncHold) ∧
    (∀ c, ((drainAll b l s).berth c).separationCause = (s.berth c).separationCause) ∧
    (∀ c, ((drainAll b l s).berth c).stageTimer = (s.berth c).stageTimer) ∧
    (∀ c, ((drainAll b l s).berth c).qualification = (s.berth c).qualification) ∧
    (∀ c, (drainAll b l s).sec c = s.sec c) ∧ (∀ c, (drainAll b l s).unit c = s.unit c) ∧
    (∀ c, (drainAll b l s).reference c = s.reference c) ∧ (∀ c, (drainAll b l s).sync c = s.sync c) ∧
    (∀ c, (drainAll b l s).meter c = s.meter c) := by
  unfold drainAll
  exact ⟨foldl_keeps State.now _ (by intros; simp) _ _,
    foldl_keeps State.resetHeld _ (by intros; simp) _ _,
    foldl_keeps State.links _ (by intros; simp) _ _,
    foldl_keeps State.units _ (by intros; simp) _ _,
    foldl_keeps State.references _ (by intros; simp) _ _,
    foldl_keeps State.capture _ (by intros; simp) _ _,
    foldl_keeps State.port _ (by intros; simp) _ _,
    foldl_keeps State.syncs _ (by intros; simp) _ _,
    foldl_keeps State.sections _ (by intros; simp) _ _,
    foldl_keeps State.meters _ (by intros; simp) _ _,
    foldl_keeps State.tariff _ (by intros; simp) _ _,
    foldl_keeps State.records _ (by intros; simp) _ _,
    foldl_keeps State.settings _ (by intros; simp) _ _,
    foldl_keeps State.freeCount _ (by intros; simp) _ _,
    foldl_keeps State.pending _ (by intros; simp) _ _,
    fun c => foldl_keeps (fun s => (s.berth c).inService) _ (by intros; simp) _ _,
    fun c => foldl_keeps (fun s => (s.berth c).stage) _ (by intros; simp) _ _,
    fun c => foldl_keeps (fun s => (s.berth c).holder) _ (by intros; simp) _ _,
    fun c => foldl_keeps (fun s => (s.berth c).pendingSince) _ (by intros; simp) _ _,
    fun c => foldl_keeps (fun s => (s.berth c).agreement) _ (by intros; simp) _ _,
    fun c => foldl_keeps (fun s => (s.berth c).causes) _ (by intros; simp) _ _,
    fun c => foldl_keeps (fun s => (s.berth c).status) _ (by intros; simp) _ _,
    fun c => foldl_keeps (fun s => (s.berth c).summaryReserved) _ (by intros; simp) _ _,
    fun c => foldl_keeps (fun s => (s.berth c).linkLost) _ (by intros; simp) _ _,
    fun c => foldl_keeps (fun s => (s.berth c).syncHold) _ (by intros; simp) _ _,
    fun c => foldl_keeps (fun s => (s.berth c).separationCause) _ (by intros; simp) _ _,
    fun c => foldl_keeps (fun s => (s.berth c).stageTimer) _ (by intros; simp) _ _,
    fun c => foldl_keeps (fun s => (s.berth c).qualification) _ (by intros; simp) _ _,
    fun c => foldl_keeps (fun s => s.sec c) _ (by intros; simp) _ _,
    fun c => foldl_keeps (fun s => s.unit c) _ (by intros; simp) _ _,
    fun c => foldl_keeps (fun s => s.reference c) _ (by intros; simp) _ _,
    fun c => foldl_keeps (fun s => s.sync c) _ (by intros; simp) _ _,
    fun c => foldl_keeps (fun s => s.meter c) _ (by intros; simp) _ _⟩

/-- What `withdraw` leaves alone. -/
@[simp] theorem withdraw_frame (b : Berth) (d : Bool) (s : State) :
    (withdraw b d s).now = s.now ∧ (withdraw b d s).resetHeld = s.resetHeld ∧ (withdraw b d s).links = s.links ∧
    (withdraw b d s).units = s.units ∧ (withdraw b d s).references = s.references ∧
    (withdraw b d s).capture = s.capture ∧ (withdraw b d s).port = s.port ∧ (withdraw b d s).syncs = s.syncs ∧
    (withdraw b d s).meters = s.meters ∧ (withdraw b d s).tariff = s.tariff ∧
    (withdraw b d s).records = s.records ∧ (withdraw b d s).settings = s.settings ∧
    (withdraw b d s).freeCount = s.freeCount ∧ (withdraw b d s).pending = s.pending ∧
    (∀ c, ((withdraw b d s).berth c).inService = (s.berth c).inService) ∧
    (∀ c, ((withdraw b d s).berth c).stage = (s.berth c).stage) ∧
    (∀ c, ((withdraw b d s).berth c).holder = (s.berth c).holder) ∧
    (∀ c, ((withdraw b d s).berth c).pendingSince = (s.berth c).pendingSince) ∧
    (∀ c, ((withdraw b d s).berth c).agreement = (s.berth c).agreement) ∧
    (∀ c, ((withdraw b d s).berth c).causes = (s.berth c).causes) ∧
    (∀ c, ((withdraw b d s).berth c).status = (s.berth c).status) ∧
    (∀ c, ((withdraw b d s).berth c).summaryReserved = (s.berth c).summaryReserved) ∧
    (∀ c, ((withdraw b d s).berth c).linkLost = (s.berth c).linkLost) ∧
    (∀ c, ((withdraw b d s).berth c).syncHold = (s.berth c).syncHold) ∧
    (∀ c, ((withdraw b d s).berth c).separationCause = (s.berth c).separationCause) ∧
    (∀ c, ((withdraw b d s).berth c).qualification = (s.berth c).qualification) ∧
    (∀ c, ((withdraw b d s).sec c).emergencyStop = (s.sec c).emergencyStop) ∧
    (∀ c, ((withdraw b d s).sec c).plugPilot = (s.sec c).plugPilot) ∧
    (∀ c, ((withdraw b d s).sec c).outletAux = (s.sec c).outletAux) ∧
    (∀ c, ((withdraw b d s).sec c).couplerAux = (s.sec c).couplerAux) ∧
    (∀ c, ((withdraw b d s).sec c).earthResult = (s.sec c).earthResult) ∧
    (∀ c, ((withdraw b d s).sec c).deferrals = (s.sec c).deferrals) ∧
    (∀ c, ((withdraw b d s).sec c).schedule = (s.sec c).schedule) ∧ (∀ c, (withdraw b d s).unit c = s.unit c) ∧
    (∀ c, (withdraw b d s).reference c = s.reference c) ∧ (∀ c, (withdraw b d s).sync c = s.sync c) ∧
    (∀ c, (withdraw b d s).meter c = s.meter c) := by
  have e : withdraw b d s =
      let s := withdrawCharging b (withdrawWaiting b (removeEntry b s))
      if d then drainAll b (s.runningOf b) s else s := rfl
  rw [e]; dsimp only; split <;> simp

end Sys2Proof.Machine
end

