-- ==== Sys2Proof/Laws/Stages.lean ====
section
/-! SUPPORT. What the Reference Generators, the capture records and the stage entries leave alone: for each operation one
lemma for every berth, and one for the berths other than its own. -/

namespace Sys2Proof.Machine

set_option linter.unusedSimpArgs false

/-- What `sendReference` leaves alone. -/
@[simp] theorem sendReference_frame (b : Berth) (s : State) :
    (sendReference b s).now = s.now ∧ (sendReference b s).resetHeld = s.resetHeld ∧
    (sendReference b s).links = s.links ∧ (sendReference b s).berths = s.berths ∧
    (sendReference b s).units = s.units ∧ (sendReference b s).pool = s.pool ∧
    (sendReference b s).references = s.references ∧ (sendReference b s).capture = s.capture ∧
    (sendReference b s).port = s.port ∧ (sendReference b s).syncs = s.syncs ∧
    (sendReference b s).ramps = s.ramps ∧ (sendReference b s).budget = s.budget ∧
    (sendReference b s).sections = s.sections ∧ (sendReference b s).meters = s.meters ∧
    (sendReference b s).tariff = s.tariff ∧ (sendReference b s).records = s.records ∧
    (sendReference b s).settings = s.settings ∧ (sendReference b s).freeCount = s.freeCount ∧
    (sendReference b s).pending = s.pending ∧ (∀ c, (sendReference b s).berth c = s.berth c) ∧
    (∀ c, (sendReference b s).sec c = s.sec c) ∧ (∀ c, (sendReference b s).unit c = s.unit c) ∧
    (∀ c, (sendReference b s).reference c = s.reference c) ∧ (∀ c, (sendReference b s).sync c = s.sync c) ∧
    (∀ c, (sendReference b s).ramp c = s.ramp c) ∧ (∀ c, (sendReference b s).meter c = s.meter c) := by
  simp [sendReference]

/-- What `setMode` leaves alone. -/
@[simp] theorem setMode_frame (b : Berth) (m : RefMode) (s : State) :
    (setMode b m s).now = s.now ∧ (setMode b m s).resetHeld = s.resetHeld ∧ (setMode b m s).links = s.links ∧
    (setMode b m s).berths = s.berths ∧ (setMode b m s).units = s.units ∧ (setMode b m s).pool = s.pool ∧
    (setMode b m s).capture = s.capture ∧ (setMode b m s).port = s.port ∧ (setMode b m s).syncs = s.syncs ∧
    (setMode b m s).ramps = s.ramps ∧ (setMode b m s).budget = s.budget ∧
    (setMode b m s).sections = s.sections ∧ (setMode b m s).meters = s.meters ∧
    (setMode b m s).tariff = s.tariff ∧ (setMode b m s).records = s.records ∧
    (setMode b m s).settings = s.settings ∧ (setMode b m s).freeCount = s.freeCount ∧
    (setMode b m s).pending = s.pending ∧ (∀ c, (setMode b m s).berth c = s.berth c) ∧
    (∀ c, (setMode b m s).sec c = s.sec c) ∧ (∀ c, (setMode b m s).unit c = s.unit c) ∧
    (∀ c, (setMode b m s).sync c = s.sync c) ∧ (∀ c, (setMode b m s).ramp c = s.ramp c) ∧
    (∀ c, (setMode b m s).meter c = s.meter c) := by
  unfold setMode; (try dsimp only); (repeat' split) <;> simp

/-- What `setMode` leaves alone of another berth. -/
@[simp] theorem setMode_others (b : Berth) (m : RefMode) (c : Berth) (h : c ≠ b) (s : State) :
    (setMode b m s).reference c = s.reference c := by
  unfold setMode; (try dsimp only); (repeat' split) <;> simp [h]

/-- What `setModeByRole` leaves alone. -/
@[simp] theorem setModeByRole_frame (b : Berth) (s : State) :
    (setModeByRole b s).now = s.now ∧ (setModeByRole b s).resetHeld = s.resetHeld ∧
    (setModeByRole b s).links = s.links ∧ (setModeByRole b s).berths = s.berths ∧
    (setModeByRole b s).units = s.units ∧ (setModeByRole b s).pool = s.pool ∧
    (setModeByRole b s).capture = s.capture ∧ (setModeByRole b s).port = s.port ∧
    (setModeByRole b s).syncs = s.syncs ∧ (setModeByRole b s).ramps = s.ramps ∧
    (setModeByRole b s).budget = s.budget ∧ (setModeByRole b s).sections = s.sections ∧
    (setModeByRole b s).meters = s.meters ∧ (setModeByRole b s).tariff = s.tariff ∧
    (setModeByRole b s).records = s.records ∧ (setModeByRole b s).settings = s.settings ∧
    (setModeByRole b s).freeCount = s.freeCount ∧ (setModeByRole b s).pending = s.pending ∧
    (∀ c, (setModeByRole b s).berth c = s.berth c) ∧ (∀ c, (setModeByRole b s).sec c = s.sec c) ∧
    (∀ c, (setModeByRole b s).unit c = s.unit c) ∧ (∀ c, (setModeByRole b s).sync c = s.sync c) ∧
    (∀ c, (setModeByRole b s).ramp c = s.ramp c) ∧ (∀ c, (setModeByRole b s).meter c = s.meter c) := by
  unfold setModeByRole; (try dsimp only); (repeat' split) <;> simp

/-- What `setModeByRole` leaves alone of another berth. -/
@[simp] theorem setModeByRole_others (b : Berth) (c : Berth) (h : c ≠ b) (s : State) :
    (setModeByRole b s).reference c = s.reference c := by
  unfold setModeByRole; (try dsimp only); (repeat' split) <;> simp [h]

/-- What `correctPhase` leaves alone. -/
@[simp] theorem correctPhase_frame (b : Berth) (s : State) :
    (correctPhase b s).now = s.now ∧ (correctPhase b s).resetHeld = s.resetHeld ∧
    (correctPhase b s).links = s.links ∧ (correctPhase b s).berths = s.berths ∧
    (correctPhase b s).units = s.units ∧ (correctPhase b s).pool = s.pool ∧
    (correctPhase b s).capture = s.capture ∧ (correctPhase b s).port = s.port ∧
    (correctPhase b s).syncs = s.syncs ∧ (correctPhase b s).ramps = s.ramps ∧
    (correctPhase b s).budget = s.budget ∧ (correctPhase b s).sections = s.sections ∧
    (correctPhase b s).meters = s.meters ∧ (correctPhase b s).tariff = s.tariff ∧
    (correctPhase b s).records = s.records ∧ (correctPhase b s).settings = s.settings ∧
    (correctPhase b s).freeCount = s.freeCount ∧ (correctPhase b s).pending = s.pending ∧
    (∀ c, (correctPhase b s).berth c = s.berth c) ∧ (∀ c, (correctPhase b s).sec c = s.sec c) ∧
    (∀ c, (correctPhase b s).unit c = s.unit c) ∧ (∀ c, (correctPhase b s).sync c = s.sync c) ∧
    (∀ c, (correctPhase b s).ramp c = s.ramp c) ∧ (∀ c, (correctPhase b s).meter c = s.meter c) := by
  simp only [correctPhase]; simp [ite_views, ite_record, ite_section, ite_links]

/-- What `correctPhase` leaves alone of another berth. -/
@[simp] theorem correctPhase_others (b : Berth) (c : Berth) (h : c ≠ b) (s : State) :
    (correctPhase b s).reference c = s.reference c := by
  simp only [correctPhase]; simp [ite_views, ite_record, ite_section, ite_links, h]

/-- What `shipCrossingAtReference` leaves alone. -/
@[simp] theorem shipCrossingAtReference_frame (b : Berth) (f : Option Nat) (s : State) :
    (shipCrossingAtReference b f s).now = s.now ∧ (shipCrossingAtReference b f s).resetHeld = s.resetHeld ∧
    (shipCrossingAtReference b f s).links = s.links ∧ (shipCrossingAtReference b f s).berths = s.berths ∧
    (shipCrossingAtReference b f s).units = s.units ∧ (shipCrossingAtReference b f s).pool = s.pool ∧
    (shipCrossingAtReference b f s).capture = s.capture ∧ (shipCrossingAtReference b f s).port = s.port ∧
    (shipCrossingAtReference b f s).syncs = s.syncs ∧ (shipCrossingAtReference b f s).ramps = s.ramps ∧
    (shipCrossingAtReference b f s).budget = s.budget ∧ (shipCrossingAtReference b f s).sections = s.sections ∧
    (shipCrossingAtReference b f s).meters = s.meters ∧ (shipCrossingAtReference b f s).tariff = s.tariff ∧
    (shipCrossingAtReference b f s).records = s.records ∧
    (shipCrossingAtReference b f s).settings = s.settings ∧
    (shipCrossingAtReference b f s).freeCount = s.freeCount ∧
    (shipCrossingAtReference b f s).pending = s.pending ∧
    (∀ c, (shipCrossingAtReference b f s).berth c = s.berth c) ∧
    (∀ c, (shipCrossingAtReference b f s).sec c = s.sec c) ∧
    (∀ c, (shipCrossingAtReference b f s).unit c = s.unit c) ∧
    (∀ c, (shipCrossingAtReference b f s).sync c = s.sync c) ∧
    (∀ c, (shipCrossingAtReference b f s).ramp c = s.ramp c) ∧
    (∀ c, (shipCrossingAtReference b f s).meter c = s.meter c) := by
  unfold shipCrossingAtReference; (try dsimp only); (repeat' split) <;> simp

/-- What `shipCrossingAtReference` leaves alone of another berth. -/
@[simp] theorem shipCrossingAtReference_others (b : Berth) (f : Option Nat) (c : Berth) (h : c ≠ b) (s : State) :
    (shipCrossingAtReference b f s).reference c = s.reference c := by
  unfold shipCrossingAtReference; (try dsimp only); (repeat' split) <;> simp [h]

/-- What `modInput` leaves alone. -/
@[simp] theorem modInput_frame (d : BusSide) (b : Berth) (f : CaptureRecord → CaptureRecord) (s : State) :
    (s.modInput d b f).now = s.now ∧ (s.modInput d b f).resetHeld = s.resetHeld ∧
    (s.modInput d b f).links = s.links ∧ (s.modInput d b f).berths = s.berths ∧
    (s.modInput d b f).units = s.units ∧ (s.modInput d b f).pool = s.pool ∧
    (s.modInput d b f).references = s.references ∧ (s.modInput d b f).port = s.port ∧
    (s.modInput d b f).syncs = s.syncs ∧ (s.modInput d b f).ramps = s.ramps ∧
    (s.modInput d b f).budget = s.budget ∧ (s.modInput d b f).sections = s.sections ∧
    (s.modInput d b f).meters = s.meters ∧ (s.modInput d b f).tariff = s.tariff ∧
    (s.modInput d b f).records = s.records ∧ (s.modInput d b f).settings = s.settings ∧
    (s.modInput d b f).sent = s.sent ∧ (s.modInput d b f).freeCount = s.freeCount ∧
    (s.modInput d b f).pending = s.pending ∧ (∀ c, (s.modInput d b f).berth c = s.berth c) ∧
    (∀ c, (s.modInput d b f).sec c = s.sec c) ∧ (∀ c, (s.modInput d b f).unit c = s.unit c) ∧
    (∀ c, (s.modInput d b f).reference c = s.reference c) ∧ (∀ c, (s.modInput d b f).sync c = s.sync c) ∧
    (∀ c, (s.modInput d b f).ramp c = s.ramp c) ∧ (∀ c, (s.modInput d b f).meter c = s.meter c) := by
  cases d <;> simp [State.modInput, State.berth, State.sec, State.unit, State.reference, State.sync, State.ramp, State.meter]

/-- What `declareDead` leaves alone. -/
@[simp] theorem declareDead_frame (d : BusSide) (b : Berth) (s : State) :
    (declareDead d b s).now = s.now ∧ (declareDead d b s).resetHeld = s.resetHeld ∧
    (declareDead d b s).berths = s.berths ∧ (declareDead d b s).units = s.units ∧
    (declareDead d b s).pool = s.pool ∧ (declareDead d b s).references = s.references ∧
    (declareDead d b s).port = s.port ∧ (declareDead d b s).ramps = s.ramps ∧
    (declareDead d b s).budget = s.budget ∧ (declareDead d b s).sections = s.sections ∧
    (declareDead d b s).meters = s.meters ∧ (declareDead d b s).tariff = s.tariff ∧
    (declareDead d b s).records = s.records ∧ (declareDead d b s).settings = s.settings ∧
    (declareDead d b s).freeCount = s.freeCount ∧ (declareDead d b s).pending = s.pending ∧
    (∀ c, (declareDead d b s).berth c = s.berth c) ∧ (∀ c, (declareDead d b s).sec c = s.sec c) ∧
    (∀ c, (declareDead d b s).unit c = s.unit c) ∧ (∀ c, (declareDead d b s).reference c = s.reference c) ∧
    (∀ c, (declareDead d b s).ramp c = s.ramp c) ∧ (∀ c, (declareDead d b s).meter c = s.meter c) ∧
    (∀ k, ((declareDead d b s).links.get k).up = (s.links.get k).up) := by
  unfold declareDead; (try dsimp only); (repeat' split) <;> simp

/-- What `declareDead` leaves alone of another berth. -/
@[simp] theorem declareDead_others (d : BusSide) (b : Berth) (c : Berth) (h : c ≠ b) (s : State) :
    (declareDead d b s).sync c = s.sync c := by
  unfold declareDead; (try dsimp only); (repeat' split) <;> simp [h]

/-- What `moveDeadTimer` leaves alone. -/
@[simp] theorem moveDeadTimer_frame (x : Nat) (d : BusSide) (b : Berth) (s : State) :
    (moveDeadTimer x d b s).now = s.now ∧ (moveDeadTimer x d b s).resetHeld = s.resetHeld ∧
    (moveDeadTimer x d b s).berths = s.berths ∧ (moveDeadTimer x d b s).units = s.units ∧
    (moveDeadTimer x d b s).pool = s.pool ∧ (moveDeadTimer x d b s).references = s.references ∧
    (moveDeadTimer x d b s).port = s.port ∧ (moveDeadTimer x d b s).ramps = s.ramps ∧
    (moveDeadTimer x d b s).budget = s.budget ∧ (moveDeadTimer x d b s).sections = s.sections ∧
    (moveDeadTimer x d b s).meters = s.meters ∧ (moveDeadTimer x d b s).tariff = s.tariff ∧
    (moveDeadTimer x d b s).records = s.records ∧ (moveDeadTimer x d b s).settings = s.settings ∧
    (moveDeadTimer x d b s).freeCount = s.freeCount ∧ (moveDeadTimer x d b s).pending = s.pending ∧
    (∀ c, (moveDeadTimer x d b s).berth c = s.berth c) ∧ (∀ c, (moveDeadTimer x d b s).sec c = s.sec c) ∧
    (∀ c, (moveDeadTimer x d b s).unit c = s.unit c) ∧
    (∀ c, (moveDeadTimer x d b s).reference c = s.reference c) ∧
    (∀ c, (moveDeadTimer x d b s).ramp c = s.ramp c) ∧ (∀ c, (moveDeadTimer x d b s).meter c = s.meter c) ∧
    (∀ k, ((moveDeadTimer x d b s).links.get k).up = (s.links.get k).up) := by
  unfold moveDeadTimer; (try dsimp only); (repeat' split) <;> simp

/-- What `moveDeadTimer` leaves alone of another berth. -/
@[simp] theorem moveDeadTimer_others (x : Nat) (d : BusSide) (b : Berth) (c : Berth) (h : c ≠ b) (s : State) :
    (moveDeadTimer x d b s).sync c = s.sync c := by
  unfold moveDeadTimer; (try dsimp only); (repeat' split) <;> simp [h]

/-- What `setAgreement` leaves alone. -/
@[simp] theorem setAgreement_frame (b : Berth) (a : Option Agreement) (s : State) :
    (setAgreement b a s).now = s.now ∧ (setAgreement b a s).resetHeld = s.resetHeld ∧
    (setAgreement b a s).units = s.units ∧ (setAgreement b a s).pool = s.pool ∧
    (setAgreement b a s).references = s.references ∧ (setAgreement b a s).port = s.port ∧
    (setAgreement b a s).ramps = s.ramps ∧ (setAgreement b a s).budget = s.budget ∧
    (setAgreement b a s).sections = s.sections ∧ (setAgreement b a s).meters = s.meters ∧
    (setAgreement b a s).tariff = s.tariff ∧ (setAgreement b a s).records = s.records ∧
    (setAgreement b a s).settings = s.settings ∧ (setAgreement b a s).freeCount = s.freeCount ∧
    (setAgreement b a s).pending = s.pending ∧
    (∀ c, ((setAgreement b a s).berth c).inService = (s.berth c).inService) ∧
    (∀ c, ((setAgreement b a s).berth c).stage = (s.berth c).stage) ∧
    (∀ c, ((setAgreement b a s).berth c).holder = (s.berth c).holder) ∧
    (∀ c, ((setAgreement b a s).berth c).pendingSince = (s.berth c).pendingSince) ∧
    (∀ c, ((setAgreement b a s).berth c).causes = (s.berth c).causes) ∧
    (∀ c, ((setAgreement b a s).berth c).status = (s.berth c).status) ∧
    (∀ c, ((setAgreement b a s).berth c).moduleCount = (s.berth c).moduleCount) ∧
    (∀ c, ((setAgreement b a s).berth c).summaryReserved = (s.berth c).summaryReserved) ∧
    (∀ c, ((setAgreement b a s).berth c).linkLost = (s.berth c).linkLost) ∧
    (∀ c, ((setAgreement b a s).berth c).syncHold = (s.berth c).syncHold) ∧
    (∀ c, ((setAgreement b a s).berth c).separationCause = (s.berth c).separationCause) ∧
    (∀ c, ((setAgreement b a s).berth c).stageTimer = (s.berth c).stageTimer) ∧
    (∀ c, ((setAgreement b a s).berth c).qualification = (s.berth c).qualification) ∧
    (∀ c, (setAgreement b a s).sec c = s.sec c) ∧ (∀ c, (setAgreement b a s).unit c = s.unit c) ∧
    (∀ c, (setAgreement b a s).reference c = s.reference c) ∧ (∀ c, (setAgreement b a s).ramp c = s.ramp c) ∧
    (∀ c, (setAgreement b a s).meter c = s.meter c) ∧
    (∀ k, ((setAgreement b a s).links.get k).up = (s.links.get k).up) := by
  unfold setAgreement; (try dsimp only); (repeat' split) <;> simp

/-- What `setAgreement` leaves alone of another berth. -/
@[simp] theorem setAgreement_others (b : Berth) (a : Option Agreement) (c : Berth) (h : c ≠ b) (s : State) :
    ((setAgreement b a s).berth c).agreement = (s.berth c).agreement ∧ (setAgreement b a s).sync c = s.sync c := by
  unfold setAgreement; (try dsimp only); (repeat' split) <;> simp [h]

/-- What `setStage` leaves alone. -/
@[simp] theorem setStage_frame (b : Berth) (g : Stage) (s : State) :
    (setStage b g s).now = s.now ∧ (setStage b g s).resetHeld = s.resetHeld ∧ (setStage b g s).units = s.units ∧
    (setStage b g s).pool = s.pool ∧ (setStage b g s).references = s.references ∧
    (setStage b g s).capture = s.capture ∧ (setStage b g s).port = s.port ∧ (setStage b g s).syncs = s.syncs ∧
    (setStage b g s).ramps = s.ramps ∧ (setStage b g s).budget = s.budget ∧
    (setStage b g s).sections = s.sections ∧ (setStage b g s).meters = s.meters ∧
    (setStage b g s).tariff = s.tariff ∧ (setStage b g s).records = s.records ∧
    (setStage b g s).settings = s.settings ∧ (setStage b g s).freeCount = s.freeCount ∧
    (setStage b g s).pending = s.pending ∧ (∀ c, ((setStage b g s).berth c).inService = (s.berth c).inService) ∧
    (∀ c, ((setStage b g s).berth c).holder = (s.berth c).holder) ∧
    (∀ c, ((setStage b g s).berth c).pendingSince = (s.berth c).pendingSince) ∧
    (∀ c, ((setStage b g s).berth c).agreement = (s.berth c).agreement) ∧
    (∀ c, ((setStage b g s).berth c).causes = (s.berth c).causes) ∧
    (∀ c, ((setStage b g s).berth c).status = (s.berth c).status) ∧
    (∀ c, ((setStage b g s).berth c).moduleCount = (s.berth c).moduleCount) ∧
    (∀ c, ((setStage b g s).berth c).summaryReserved = (s.berth c).summaryReserved) ∧
    (∀ c, ((setStage b g s).berth c).linkLost = (s.berth c).linkLost) ∧
    (∀ c, ((setStage b g s).berth c).syncHold = (s.berth c).syncHold) ∧
    (∀ c, ((setStage b g s).berth c).separationCause = (s.berth c).separationCause) ∧
    (∀ c, ((setStage b g s).berth c).stageTimer = (s.berth c).stageTimer) ∧
    (∀ c, ((setStage b g s).berth c).qualification = (s.berth c).qualification) ∧
    (∀ c, (setStage b g s).sec c = s.sec c) ∧ (∀ c, (setStage b g s).unit c = s.unit c) ∧
    (∀ c, (setStage b g s).reference c = s.reference c) ∧ (∀ c, (setStage b g s).sync c = s.sync c) ∧
    (∀ c, (setStage b g s).ramp c = s.ramp c) ∧ (∀ c, (setStage b g s).meter c = s.meter c) ∧
    (∀ k, ((setStage b g s).links.get k).up = (s.links.get k).up) := by
  simp [setStage]

/-- What `setStage` leaves alone of another berth. -/
@[simp] theorem setStage_others (b : Berth) (g : Stage) (c : Berth) (h : c ≠ b) (s : State) :
    ((setStage b g s).berth c).stage = (s.berth c).stage := by
  simp [setStage, h]

/-- What `commandOutletOpen` leaves alone. -/
@[simp] theorem commandOutletOpen_frame (b : Berth) (s : State) :
    (commandOutletOpen b s).now = s.now ∧ (commandOutletOpen b s).resetHeld = s.resetHeld ∧
    (commandOutletOpen b s).links = s.links ∧ (commandOutletOpen b s).berths = s.berths ∧
    (commandOutletOpen b s).units = s.units ∧ (commandOutletOpen b s).pool = s.pool ∧
    (commandOutletOpen b s).references = s.references ∧ (commandOutletOpen b s).capture = s.capture ∧
    (commandOutletOpen b s).port = s.port ∧ (commandOutletOpen b s).syncs = s.syncs ∧
    (commandOutletOpen b s).ramps = s.ramps ∧ (commandOutletOpen b s).budget = s.budget ∧
    (commandOutletOpen b s).meters = s.meters ∧ (commandOutletOpen b s).tariff = s.tariff ∧
    (commandOutletOpen b s).records = s.records ∧ (commandOutletOpen b s).settings = s.settings ∧
    (commandOutletOpen b s).sent = s.sent ∧ (commandOutletOpen b s).freeCount = s.freeCount ∧
    (commandOutletOpen b s).pending = s.pending ∧ (∀ c, (commandOutletOpen b s).berth c = s.berth c) ∧
    (∀ c, ((commandOutletOpen b s).sec c).emergencyStop = (s.sec c).emergencyStop) ∧
    (∀ c, ((commandOutletOpen b s).sec c).plugPilot = (s.sec c).plugPilot) ∧
    (∀ c, ((commandOutletOpen b s).sec c).outletAux = (s.sec c).outletAux) ∧
    (∀ c, ((commandOutletOpen b s).sec c).couplerAux = (s.sec c).couplerAux) ∧
    (∀ c, ((commandOutletOpen b s).sec c).earthResult = (s.sec c).earthResult) ∧
    (∀ c, ((commandOutletOpen b s).sec c).deferrals = (s.sec c).deferrals) ∧
    (∀ c, ((commandOutletOpen b s).sec c).schedule = (s.sec c).schedule) ∧
    (∀ c, (commandOutletOpen b s).unit c = s.unit c) ∧
    (∀ c, (commandOutletOpen b s).reference c = s.reference c) ∧
    (∀ c, (commandOutletOpen b s).sync c = s.sync c) ∧ (∀ c, (commandOutletOpen b s).ramp c = s.ramp c) ∧
    (∀ c, (commandOutletOpen b s).meter c = s.meter c) := by
  unfold commandOutletOpen; (try dsimp only); (repeat' split) <;> simp

/-- What `beginOpenPulse` leaves alone. -/
@[simp] theorem beginOpenPulse_frame (b : Berth) (s : State) :
    (beginOpenPulse b s).now = s.now ∧ (beginOpenPulse b s).resetHeld = s.resetHeld ∧
    (beginOpenPulse b s).links = s.links ∧ (beginOpenPulse b s).berths = s.berths ∧
    (beginOpenPulse b s).units = s.units ∧ (beginOpenPulse b s).pool = s.pool ∧
    (beginOpenPulse b s).references = s.references ∧ (beginOpenPulse b s).capture = s.capture ∧
    (beginOpenPulse b s).port = s.port ∧ (beginOpenPulse b s).syncs = s.syncs ∧
    (beginOpenPulse b s).ramps = s.ramps ∧ (beginOpenPulse b s).budget = s.budget ∧
    (beginOpenPulse b s).meters = s.meters ∧ (beginOpenPulse b s).tariff = s.tariff ∧
    (beginOpenPulse b s).records = s.records ∧ (beginOpenPulse b s).settings = s.settings ∧
    (beginOpenPulse b s).sent = s.sent ∧ (beginOpenPulse b s).freeCount = s.freeCount ∧
    (beginOpenPulse b s).pending = s.pending ∧ (∀ c, (beginOpenPulse b s).berth c = s.berth c) ∧
    (∀ c, ((beginOpenPulse b s).sec c).emergencyStop = (s.sec c).emergencyStop) ∧
    (∀ c, ((beginOpenPulse b s).sec c).plugPilot = (s.sec c).plugPilot) ∧
    (∀ c, ((beginOpenPulse b s).sec c).outletAux = (s.sec c).outletAux) ∧
    (∀ c, ((beginOpenPulse b s).sec c).couplerAux = (s.sec c).couplerAux) ∧
    (∀ c, ((beginOpenPulse b s).sec c).earthResult = (s.sec c).earthResult) ∧
    (∀ c, ((beginOpenPulse b s).sec c).deferrals = (s.sec c).deferrals) ∧
    (∀ c, ((beginOpenPulse b s).sec c).schedule = (s.sec c).schedule) ∧
    (∀ c, ((beginOpenPulse b s).sec c).outletCommand = (s.sec c).outletCommand) ∧
    (∀ c, (beginOpenPulse b s).unit c = s.unit c) ∧ (∀ c, (beginOpenPulse b s).reference c = s.reference c) ∧
    (∀ c, (beginOpenPulse b s).sync c = s.sync c) ∧ (∀ c, (beginOpenPulse b s).ramp c = s.ramp c) ∧
    (∀ c, (beginOpenPulse b s).meter c = s.meter c) := by
  simp [beginOpenPulse]

/-- What `setCheckRunning` leaves alone. -/
@[simp] theorem setCheckRunning_frame (b : Berth) (x : Bool) (s : State) :
    (setCheckRunning b x s).now = s.now ∧ (setCheckRunning b x s).resetHeld = s.resetHeld ∧
    (setCheckRunning b x s).links = s.links ∧ (setCheckRunning b x s).berths = s.berths ∧
    (setCheckRunning b x s).units = s.units ∧ (setCheckRunning b x s).pool = s.pool ∧
    (setCheckRunning b x s).references = s.references ∧ (setCheckRunning b x s).capture = s.capture ∧
    (setCheckRunning b x s).port = s.port ∧ (setCheckRunning b x s).budget = s.budget ∧
    (setCheckRunning b x s).sections = s.sections ∧ (setCheckRunning b x s).meters = s.meters ∧
    (setCheckRunning b x s).tariff = s.tariff ∧ (setCheckRunning b x s).records = s.records ∧
    (setCheckRunning b x s).settings = s.settings ∧ (setCheckRunning b x s).sent = s.sent ∧
    (setCheckRunning b x s).freeCount = s.freeCount ∧ (setCheckRunning b x s).pending = s.pending ∧
    (∀ c, (setCheckRunning b x s).berth c = s.berth c) ∧ (∀ c, (setCheckRunning b x s).sec c = s.sec c) ∧
    (∀ c, (setCheckRunning b x s).unit c = s.unit c) ∧
    (∀ c, (setCheckRunning b x s).reference c = s.reference c) ∧
    (∀ c, (setCheckRunning b x s).meter c = s.meter c) := by
  simp [setCheckRunning]

/-- What `setCheckRunning` leaves alone of another berth. -/
@[simp] theorem setCheckRunning_others (b : Berth) (x : Bool) (c : Berth) (h : c ≠ b) (s : State) :
    (setCheckRunning b x s).sync c = s.sync c := by
  simp [setCheckRunning, h]

/-- What `cancelSchedule` leaves alone. -/
@[simp] theorem cancelSchedule_frame (b : Berth) (s : State) :
    (cancelSchedule b s).now = s.now ∧ (cancelSchedule b s).resetHeld = s.resetHeld ∧
    (cancelSchedule b s).links = s.links ∧ (cancelSchedule b s).berths = s.berths ∧
    (cancelSchedule b s).units = s.units ∧ (cancelSchedule b s).pool = s.pool ∧
    (cancelSchedule b s).references = s.references ∧ (cancelSchedule b s).capture = s.capture ∧
    (cancelSchedule b s).port = s.port ∧ (cancelSchedule b s).budget = s.budget ∧
    (cancelSchedule b s).meters = s.meters ∧ (cancelSchedule b s).tariff = s.tariff ∧
    (cancelSchedule b s).records = s.records ∧ (cancelSchedule b s).settings = s.settings ∧
    (cancelSchedule b s).sent = s.sent ∧ (cancelSchedule b s).freeCount = s.freeCount ∧
    (cancelSchedule b s).pending = s.pending ∧ (∀ c, (cancelSchedule b s).berth c = s.berth c) ∧
    (∀ c, ((cancelSchedule b s).sec c).emergencyStop = (s.sec c).emergencyStop) ∧
    (∀ c, ((cancelSchedule b s).sec c).plugPilot = (s.sec c).plugPilot) ∧
    (∀ c, ((cancelSchedule b s).sec c).outletAux = (s.sec c).outletAux) ∧
    (∀ c, ((cancelSchedule b s).sec c).couplerAux = (s.sec c).couplerAux) ∧
    (∀ c, ((cancelSchedule b s).sec c).earthResult = (s.sec c).earthResult) ∧
    (∀ c, ((cancelSchedule b s).sec c).outletCommand = (s.sec c).outletCommand) ∧
    (∀ c, (cancelSchedule b s).unit c = s.unit c) ∧ (∀ c, (cancelSchedule b s).reference c = s.reference c) ∧
    (∀ c, (cancelSchedule b s).meter c = s.meter c) := by
  simp [cancelSchedule]

/-- What `cancelSchedule` leaves alone of another berth. -/
@[simp] theorem cancelSchedule_others (b : Berth) (c : Berth) (h : c ≠ b) (s : State) :
    ((cancelSchedule b s).sec c).deferrals = (s.sec c).deferrals ∧
    ((cancelSchedule b s).sec c).schedule = (s.sec c).schedule ∧ (cancelSchedule b s).sync c = s.sync c := by
  simp [cancelSchedule, h]

/-- What `stopGrace` leaves alone. -/
@[simp] theorem stopGrace_frame (b : Berth) (s : State) :
    (stopGrace b s).now = s.now ∧ (stopGrace b s).resetHeld = s.resetHeld ∧ (stopGrace b s).links = s.links ∧
    (stopGrace b s).berths = s.berths ∧ (stopGrace b s).units = s.units ∧ (stopGrace b s).pool = s.pool ∧
    (stopGrace b s).references = s.references ∧ (stopGrace b s).capture = s.capture ∧
    (stopGrace b s).port = s.port ∧ (stopGrace b s).syncs = s.syncs ∧ (stopGrace b s).ramps = s.ramps ∧
    (stopGrace b s).budget = s.budget ∧ (stopGrace b s).meters = s.meters ∧ (stopGrace b s).tariff = s.tariff ∧
    (stopGrace b s).records = s.records ∧ (stopGrace b s).settings = s.settings ∧
    (stopGrace b s).sent = s.sent ∧ (stopGrace b s).freeCount = s.freeCount ∧
    (stopGrace b s).pending = s.pending ∧ (∀ c, (stopGrace b s).berth c = s.berth c) ∧
    (∀ c, ((stopGrace b s).sec c).emergencyStop = (s.sec c).emergencyStop) ∧
    (∀ c, ((stopGrace b s).sec c).plugPilot = (s.sec c).plugPilot) ∧
    (∀ c, ((stopGrace b s).sec c).outletAux = (s.sec c).outletAux) ∧
    (∀ c, ((stopGrace b s).sec c).couplerAux = (s.sec c).couplerAux) ∧
    (∀ c, ((stopGrace b s).sec c).earthResult = (s.sec c).earthResult) ∧
    (∀ c, ((stopGrace b s).sec c).deferrals = (s.sec c).deferrals) ∧
    (∀ c, ((stopGrace b s).sec c).schedule = (s.sec c).schedule) ∧
    (∀ c, ((stopGrace b s).sec c).outletCommand = (s.sec c).outletCommand) ∧
    (∀ c, (stopGrace b s).unit c = s.unit c) ∧ (∀ c, (stopGrace b s).reference c = s.reference c) ∧
    (∀ c, (stopGrace b s).sync c = s.sync c) ∧ (∀ c, (stopGrace b s).ramp c = s.ramp c) ∧
    (∀ c, (stopGrace b s).meter c = s.meter c) := by
  simp [stopGrace]

/-- What `clearOverload` leaves alone. -/
@[simp] theorem clearOverload_frame (b : Berth) (s : State) :
    (clearOverload b s).now = s.now ∧ (clearOverload b s).resetHeld = s.resetHeld ∧
    (clearOverload b s).links = s.links ∧ (clearOverload b s).berths = s.berths ∧
    (clearOverload b s).units = s.units ∧ (clearOverload b s).pool = s.pool ∧
    (clearOverload b s).references = s.references ∧ (clearOverload b s).capture = s.capture ∧
    (clearOverload b s).port = s.port ∧ (clearOverload b s).syncs = s.syncs ∧
    (clearOverload b s).ramps = s.ramps ∧ (clearOverload b s).budget = s.budget ∧
    (clearOverload b s).meters = s.meters ∧ (clearOverload b s).tariff = s.tariff ∧
    (clearOverload b s).records = s.records ∧ (clearOverload b s).settings = s.settings ∧
    (clearOverload b s).sent = s.sent ∧ (clearOverload b s).freeCount = s.freeCount ∧
    (clearOverload b s).pending = s.pending ∧ (∀ c, (clearOverload b s).berth c = s.berth c) ∧
    (∀ c, ((clearOverload b s).sec c).emergencyStop = (s.sec c).emergencyStop) ∧
    (∀ c, ((clearOverload b s).sec c).plugPilot = (s.sec c).plugPilot) ∧
    (∀ c, ((clearOverload b s).sec c).outletAux = (s.sec c).outletAux) ∧
    (∀ c, ((clearOverload b s).sec c).couplerAux = (s.sec c).couplerAux) ∧
    (∀ c, ((clearOverload b s).sec c).earthResult = (s.sec c).earthResult) ∧
    (∀ c, ((clearOverload b s).sec c).deferrals = (s.sec c).deferrals) ∧
    (∀ c, ((clearOverload b s).sec c).schedule = (s.sec c).schedule) ∧
    (∀ c, ((clearOverload b s).sec c).outletCommand = (s.sec c).outletCommand) ∧
    (∀ c, (clearOverload b s).unit c = s.unit c) ∧ (∀ c, (clearOverload b s).reference c = s.reference c) ∧
    (∀ c, (clearOverload b s).sync c = s.sync c) ∧ (∀ c, (clearOverload b s).ramp c = s.ramp c) ∧
    (∀ c, (clearOverload b s).meter c = s.meter c) := by
  simp [clearOverload]

/-- What `stopSync` leaves alone. -/
@[simp] theorem stopSync_frame (b : Berth) (s : State) :
    (stopSync b s).now = s.now ∧ (stopSync b s).resetHeld = s.resetHeld ∧ (stopSync b s).links = s.links ∧
    (stopSync b s).berths = s.berths ∧ (stopSync b s).units = s.units ∧ (stopSync b s).pool = s.pool ∧
    (stopSync b s).references = s.references ∧ (stopSync b s).capture = s.capture ∧
    (stopSync b s).port = s.port ∧ (stopSync b s).ramps = s.ramps ∧ (stopSync b s).budget = s.budget ∧
    (stopSync b s).sections = s.sections ∧ (stopSync b s).meters = s.meters ∧ (stopSync b s).tariff = s.tariff ∧
    (stopSync b s).records = s.records ∧ (stopSync b s).settings = s.settings ∧ (stopSync b s).sent = s.sent ∧
    (stopSync b s).freeCount = s.freeCount ∧ (stopSync b s).pending = s.pending ∧
    (∀ c, (stopSync b s).berth c = s.berth c) ∧ (∀ c, (stopSync b s).sec c = s.sec c) ∧
    (∀ c, (stopSync b s).unit c = s.unit c) ∧ (∀ c, (stopSync b s).reference c = s.reference c) ∧
    (∀ c, (stopSync b s).ramp c = s.ramp c) ∧ (∀ c, (stopSync b s).meter c = s.meter c) := by
  simp [stopSync]

/-- What `stopSync` leaves alone of another berth. -/
@[simp] theorem stopSync_others (b : Berth) (c : Berth) (h : c ≠ b) (s : State) :
    (stopSync b s).sync c = s.sync c := by
  simp [stopSync, h]

/-- What `startSync` leaves alone. -/
@[simp] theorem startSync_frame (b : Berth) (s : State) :
    (startSync b s).now = s.now ∧ (startSync b s).resetHeld = s.resetHeld ∧ (startSync b s).links = s.links ∧
    (startSync b s).berths = s.berths ∧ (startSync b s).units = s.units ∧ (startSync b s).pool = s.pool ∧
    (startSync b s).references = s.references ∧ (startSync b s).capture = s.capture ∧
    (startSync b s).port = s.port ∧ (startSync b s).ramps = s.ramps ∧ (startSync b s).budget = s.budget ∧
    (startSync b s).sections = s.sections ∧ (startSync b s).meters = s.meters ∧
    (startSync b s).tariff = s.tariff ∧ (startSync b s).records = s.records ∧
    (startSync b s).settings = s.settings ∧ (startSync b s).sent = s.sent ∧
    (startSync b s).freeCount = s.freeCount ∧ (startSync b s).pending = s.pending ∧
    (∀ c, (startSync b s).berth c = s.berth c) ∧ (∀ c, (startSync b s).sec c = s.sec c) ∧
    (∀ c, (startSync b s).unit c = s.unit c) ∧ (∀ c, (startSync b s).reference c = s.reference c) ∧
    (∀ c, (startSync b s).ramp c = s.ramp c) ∧ (∀ c, (startSync b s).meter c = s.meter c) := by
  simp [startSync]

/-- What `startSync` leaves alone of another berth. -/
@[simp] theorem startSync_others (b : Berth) (c : Berth) (h : c ≠ b) (s : State) :
    (startSync b s).sync c = s.sync c := by
  simp [startSync, h]

/-- What `dropAuthority` leaves alone. -/
@[simp] theorem dropAuthority_frame (b : Berth) (s : State) :
    (dropAuthority b s).now = s.now ∧ (dropAuthority b s).resetHeld = s.resetHeld ∧
    (dropAuthority b s).links = s.links ∧ (dropAuthority b s).units = s.units ∧
    (dropAuthority b s).pool = s.pool ∧ (dropAuthority b s).references = s.references ∧
    (dropAuthority b s).capture = s.capture ∧ (dropAuthority b s).port = s.port ∧
    (dropAuthority b s).syncs = s.syncs ∧ (dropAuthority b s).ramps = s.ramps ∧
    (dropAuthority b s).budget = s.budget ∧ (dropAuthority b s).sections = s.sections ∧
    (dropAuthority b s).meters = s.meters ∧ (dropAuthority b s).tariff = s.tariff ∧
    (dropAuthority b s).records = s.records ∧ (dropAuthority b s).settings = s.settings ∧
    (dropAuthority b s).sent = s.sent ∧ (dropAuthority b s).freeCount = s.freeCount ∧
    (dropAuthority b s).pending = s.pending ∧
    (∀ c, ((dropAuthority b s).berth c).inService = (s.berth c).inService) ∧
    (∀ c, ((dropAuthority b s).berth c).stage = (s.berth c).stage) ∧
    (∀ c, ((dropAuthority b s).berth c).agreement = (s.berth c).agreement) ∧
    (∀ c, ((dropAuthority b s).berth c).causes = (s.berth c).causes) ∧
    (∀ c, ((dropAuthority b s).berth c).status = (s.berth c).status) ∧
    (∀ c, ((dropAuthority b s).berth c).moduleCount = (s.berth c).moduleCount) ∧
    (∀ c, ((dropAuthority b s).berth c).summaryReserved = (s.berth c).summaryReserved) ∧
    (∀ c, ((dropAuthority b s).berth c).linkLost = (s.berth c).linkLost) ∧
    (∀ c, ((dropAuthority b s).berth c).syncHold = (s.berth c).syncHold) ∧
    (∀ c, ((dropAuthority b s).berth c).separationCause = (s.berth c).separationCause) ∧
    (∀ c, ((dropAuthority b s).berth c).stageTimer = (s.berth c).stageTimer) ∧
    (∀ c, ((dropAuthority b s).berth c).qualification = (s.berth c).qualification) ∧
    (∀ c, (dropAuthority b s).sec c = s.sec c) ∧ (∀ c, (dropAuthority b s).unit c = s.unit c) ∧
    (∀ c, (dropAuthority b s).reference c = s.reference c) ∧ (∀ c, (dropAuthority b s).sync c = s.sync c) ∧
    (∀ c, (dropAuthority b s).ramp c = s.ramp c) ∧ (∀ c, (dropAuthority b s).meter c = s.meter c) := by
  simp [dropAuthority]

/-- What `dropAuthority` leaves alone of another berth. -/
@[simp] theorem dropAuthority_others (b : Berth) (c : Berth) (h : c ≠ b) (s : State) :
    ((dropAuthority b s).berth c).holder = (s.berth c).holder ∧
    ((dropAuthority b s).berth c).pendingSince = (s.berth c).pendingSince := by
  simp [dropAuthority, h]

/-- What `enterNegotiatingFromVacant` leaves alone. -/
@[simp] theorem enterNegotiatingFromVacant_frame (b : Berth) (s : State) :
    (enterNegotiatingFromVacant b s).now = s.now ∧ (enterNegotiatingFromVacant b s).resetHeld = s.resetHeld ∧
    (enterNegotiatingFromVacant b s).pool = s.pool ∧
    (enterNegotiatingFromVacant b s).references = s.references ∧
    (enterNegotiatingFromVacant b s).port = s.port ∧ (enterNegotiatingFromVacant b s).ramps = s.ramps ∧
    (enterNegotiatingFromVacant b s).budget = s.budget ∧
    (enterNegotiatingFromVacant b s).sections = s.sections ∧
    (enterNegotiatingFromVacant b s).meters = s.meters ∧ (enterNegotiatingFromVacant b s).tariff = s.tariff ∧
    (enterNegotiatingFromVacant b s).records = s.records ∧
    (enterNegotiatingFromVacant b s).settings = s.settings ∧
    (enterNegotiatingFromVacant b s).freeCount = s.freeCount ∧
    (enterNegotiatingFromVacant b s).pending = s.pending ∧
    (∀ c, ((enterNegotiatingFromVacant b s).berth c).inService = (s.berth c).inService) ∧
    (∀ c, ((enterNegotiatingFromVacant b s).berth c).holder = (s.berth c).holder) ∧
    (∀ c, ((enterNegotiatingFromVacant b s).berth c).pendingSince = (s.berth c).pendingSince) ∧
    (∀ c, ((enterNegotiatingFromVacant b s).berth c).causes = (s.berth c).causes) ∧
    (∀ c, ((enterNegotiatingFromVacant b s).berth c).status = (s.berth c).status) ∧
    (∀ c, ((enterNegotiatingFromVacant b s).berth c).moduleCount = (s.berth c).moduleCount) ∧
    (∀ c, ((enterNegotiatingFromVacant b s).berth c).summaryReserved = (s.berth c).summaryReserved) ∧
    (∀ c, ((enterNegotiatingFromVacant b s).berth c).linkLost = (s.berth c).linkLost) ∧
    (∀ c, ((enterNegotiatingFromVacant b s).berth c).syncHold = (s.berth c).syncHold) ∧
    (∀ c, ((enterNegotiatingFromVacant b s).berth c).separationCause = (s.berth c).separationCause) ∧
    (∀ c, ((enterNegotiatingFromVacant b s).berth c).stageTimer = (s.berth c).stageTimer) ∧
    (∀ c, ((enterNegotiatingFromVacant b s).berth c).qualification = (s.berth c).qualification) ∧
    (∀ c, (enterNegotiatingFromVacant b s).sec c = s.sec c) ∧
    (∀ c, (enterNegotiatingFromVacant b s).reference c = s.reference c) ∧
    (∀ c, (enterNegotiatingFromVacant b s).ramp c = s.ramp c) ∧
    (∀ c, (enterNegotiatingFromVacant b s).meter c = s.meter c) ∧
    (∀ k, ((enterNegotiatingFromVacant b s).links.get k).up = (s.links.get k).up) := by
  simp [enterNegotiatingFromVacant]

/-- What `enterNegotiatingFromVacant` leaves alone of another berth. -/
@[simp] theorem enterNegotiatingFromVacant_others (b : Berth) (c : Berth) (h : c ≠ b) (s : State) :
    ((enterNegotiatingFromVacant b s).berth c).stage = (s.berth c).stage ∧
    ((enterNegotiatingFromVacant b s).berth c).agreement = (s.berth c).agreement ∧
    (enterNegotiatingFromVacant b s).unit c = s.unit c ∧ (enterNegotiatingFromVacant b s).sync c = s.sync c := by
  simp [enterNegotiatingFromVacant, h]

/-- What `enterNegotiatingFromAgreed` leaves alone. -/
@[simp] theorem enterNegotiatingFromAgreed_frame (b : Berth) (s : State) :
    (enterNegotiatingFromAgreed b s).now = s.now ∧ (enterNegotiatingFromAgreed b s).resetHeld = s.resetHeld ∧
    (enterNegotiatingFromAgreed b s).pool = s.pool ∧
    (enterNegotiatingFromAgreed b s).references = s.references ∧
    (enterNegotiatingFromAgreed b s).port = s.port ∧ (enterNegotiatingFromAgreed b s).ramps = s.ramps ∧
    (enterNegotiatingFromAgreed b s).budget = s.budget ∧
    (enterNegotiatingFromAgreed b s).sections = s.sections ∧
    (enterNegotiatingFromAgreed b s).meters = s.meters ∧ (enterNegotiatingFromAgreed b s).tariff = s.tariff ∧
    (enterNegotiatingFromAgreed b s).records = s.records ∧
    (enterNegotiatingFromAgreed b s).settings = s.settings ∧
    (enterNegotiatingFromAgreed b s).freeCount = s.freeCount ∧
    (enterNegotiatingFromAgreed b s).pending = s.pending ∧
    (∀ c, ((enterNegotiatingFromAgreed b s).berth c).inService = (s.berth c).inService) ∧
    (∀ c, ((enterNegotiatingFromAgreed b s).berth c).holder = (s.berth c).holder) ∧
    (∀ c, ((enterNegotiatingFromAgreed b s).berth c).pendingSince = (s.berth c).pendingSince) ∧
    (∀ c, ((enterNegotiatingFromAgreed b s).berth c).causes = (s.berth c).causes) ∧
    (∀ c, ((enterNegotiatingFromAgreed b s).berth c).status = (s.berth c).status) ∧
    (∀ c, ((enterNegotiatingFromAgreed b s).berth c).moduleCount = (s.berth c).moduleCount) ∧
    (∀ c, ((enterNegotiatingFromAgreed b s).berth c).summaryReserved = (s.berth c).summaryReserved) ∧
    (∀ c, ((enterNegotiatingFromAgreed b s).berth c).linkLost = (s.berth c).linkLost) ∧
    (∀ c, ((enterNegotiatingFromAgreed b s).berth c).syncHold = (s.berth c).syncHold) ∧
    (∀ c, ((enterNegotiatingFromAgreed b s).berth c).separationCause = (s.berth c).separationCause) ∧
    (∀ c, ((enterNegotiatingFromAgreed b s).berth c).stageTimer = (s.berth c).stageTimer) ∧
    (∀ c, ((enterNegotiatingFromAgreed b s).berth c).qualification = (s.berth c).qualification) ∧
    (∀ c, (enterNegotiatingFromAgreed b s).sec c = s.sec c) ∧
    (∀ c, (enterNegotiatingFromAgreed b s).reference c = s.reference c) ∧
    (∀ c, (enterNegotiatingFromAgreed b s).ramp c = s.ramp c) ∧
    (∀ c, (enterNegotiatingFromAgreed b s).meter c = s.meter c) ∧
    (∀ k, ((enterNegotiatingFromAgreed b s).links.get k).up = (s.links.get k).up) := by
  simp [enterNegotiatingFromAgreed]

/-- What `enterNegotiatingFromAgreed` leaves alone of another berth. -/
@[simp] theorem enterNegotiatingFromAgreed_others (b : Berth) (c : Berth) (h : c ≠ b) (s : State) :
    ((enterNegotiatingFromAgreed b s).berth c).stage = (s.berth c).stage ∧
    ((enterNegotiatingFromAgreed b s).berth c).agreement = (s.berth c).agreement ∧
    (enterNegotiatingFromAgreed b s).unit c = s.unit c ∧ (enterNegotiatingFromAgreed b s).sync c = s.sync c := by
  simp [enterNegotiatingFromAgreed, h]

/-- What `passOn` leaves alone. -/
@[simp] theorem passOn_frame (b : Berth) (s : State) :
    (passOn b s).now = s.now ∧ (passOn b s).resetHeld = s.resetHeld ∧ (passOn b s).pool = s.pool ∧
    (passOn b s).references = s.references ∧ (passOn b s).port = s.port ∧ (passOn b s).ramps = s.ramps ∧
    (passOn b s).budget = s.budget ∧ (passOn b s).sections = s.sections ∧ (passOn b s).meters = s.meters ∧
    (passOn b s).tariff = s.tariff ∧ (passOn b s).records = s.records ∧ (passOn b s).settings = s.settings ∧
    (passOn b s).freeCount = s.freeCount ∧ (passOn b s).pending = s.pending ∧
    (∀ c, ((passOn b s).berth c).inService = (s.berth c).inService) ∧
    (∀ c, ((passOn b s).berth c).holder = (s.berth c).holder) ∧
    (∀ c, ((passOn b s).berth c).pendingSince = (s.berth c).pendingSince) ∧
    (∀ c, ((passOn b s).berth c).causes = (s.berth c).causes) ∧
    (∀ c, ((passOn b s).berth c).status = (s.berth c).status) ∧
    (∀ c, ((passOn b s).berth c).moduleCount = (s.berth c).moduleCount) ∧
    (∀ c, ((passOn b s).berth c).summaryReserved = (s.berth c).summaryReserved) ∧
    (∀ c, ((passOn b s).berth c).linkLost = (s.berth c).linkLost) ∧
    (∀ c, ((passOn b s).berth c).syncHold = (s.berth c).syncHold) ∧
    (∀ c, ((passOn b s).berth c).separationCause = (s.berth c).separationCause) ∧
    (∀ c, ((passOn b s).berth c).stageTimer = (s.berth c).stageTimer) ∧
    (∀ c, ((passOn b s).berth c).qualification = (s.berth c).qualification) ∧
    (∀ c, (passOn b s).sec c = s.sec c) ∧ (∀ c, (passOn b s).reference c = s.reference c) ∧
    (∀ c, (passOn b s).ramp c = s.ramp c) ∧ (∀ c, (passOn b s).meter c = s.meter c) ∧
    (∀ k, ((passOn b s).links.get k).up = (s.links.get k).up) := by
  simp [passOn, ite_views, ite_record, ite_section, ite_links]

/-- What `passOn` leaves alone of another berth. -/
@[simp] theorem passOn_others (b : Berth) (c : Berth) (h : c ≠ b) (s : State) :
    ((passOn b s).berth c).stage = (s.berth c).stage ∧
    ((passOn b s).berth c).agreement = (s.berth c).agreement ∧ (passOn b s).unit c = s.unit c ∧
    (passOn b s).sync c = s.sync c := by
  simp [passOn, ite_views, ite_record, ite_section, ite_links, h]

@[simp] theorem BerthRecord.vacate_frame (r : BerthRecord) :
    r.vacate.inService = r.inService ∧ r.vacate.stage = r.stage ∧ r.vacate.agreement = r.agreement ∧
    r.vacate.causes = r.causes ∧ r.vacate.moduleCount = r.moduleCount ∧
    r.vacate.summaryReserved = r.summaryReserved ∧ r.vacate.linkLost = r.linkLost ∧
    r.vacate.qualification = r.qualification :=
  ⟨rfl, rfl, rfl, rfl, rfl, rfl, rfl, rfl⟩

/-- What `enterVacant` leaves alone. -/
@[simp] theorem enterVacant_frame (b : Berth) (s : State) :
    (enterVacant b s).now = s.now ∧ (enterVacant b s).resetHeld = s.resetHeld ∧
    (enterVacant b s).pool = s.pool ∧ (enterVacant b s).references = s.references ∧
    (enterVacant b s).port = s.port ∧ (enterVacant b s).ramps = s.ramps ∧ (enterVacant b s).budget = s.budget ∧
    (enterVacant b s).sections = s.sections ∧ (enterVacant b s).tariff = s.tariff ∧
    (enterVacant b s).settings = s.settings ∧ (enterVacant b s).freeCount = s.freeCount ∧
    (enterVacant b s).pending = s.pending ∧
    (∀ c, ((enterVacant b s).berth c).inService = (s.berth c).inService) ∧
    (∀ c, ((enterVacant b s).berth c).causes = (s.berth c).causes) ∧
    (∀ c, ((enterVacant b s).berth c).moduleCount = (s.berth c).moduleCount) ∧
    (∀ c, ((enterVacant b s).berth c).summaryReserved = (s.berth c).summaryReserved) ∧
    (∀ c, ((enterVacant b s).berth c).linkLost = (s.berth c).linkLost) ∧
    (∀ c, ((enterVacant b s).berth c).qualification = (s.berth c).qualification) ∧
    (∀ c, (enterVacant b s).sec c = s.sec c) ∧ (∀ c, (enterVacant b s).reference c = s.reference c) ∧
    (∀ c, (enterVacant b s).ramp c = s.ramp c) ∧ (∀ k, ((enterVacant b s).links.get k).up = (s.links.get k).up) := by
  simp [enterVacant]

/-- What `enterVacant` leaves alone of another berth. -/
@[simp] theorem enterVacant_others (b : Berth) (c : Berth) (h : c ≠ b) (s : State) :
    ((enterVacant b s).berth c).stage = (s.berth c).stage ∧
    ((enterVacant b s).berth c).holder = (s.berth c).holder ∧
    ((enterVacant b s).berth c).pendingSince = (s.berth c).pendingSince ∧
    ((enterVacant b s).berth c).agreement = (s.berth c).agreement ∧
    ((enterVacant b s).berth c).status = (s.berth c).status ∧
    ((enterVacant b s).berth c).syncHold = (s.berth c).syncHold ∧
    ((enterVacant b s).berth c).separationCause = (s.berth c).separationCause ∧
    (enterVacant b s).unit c = s.unit c ∧ (enterVacant b s).sync c = s.sync c := by
  simp [enterVacant, h]

/-- What `enterAgreed` leaves alone. -/
@[simp] theorem enterAgreed_frame (b : Berth) (s : State) :
    (enterAgreed b s).now = s.now ∧ (enterAgreed b s).resetHeld = s.resetHeld ∧
    (enterAgreed b s).units = s.units ∧ (enterAgreed b s).pool = s.pool ∧
    (enterAgreed b s).references = s.references ∧ (enterAgreed b s).capture = s.capture ∧
    (enterAgreed b s).port = s.port ∧ (enterAgreed b s).syncs = s.syncs ∧ (enterAgreed b s).ramps = s.ramps ∧
    (enterAgreed b s).budget = s.budget ∧ (enterAgreed b s).sections = s.sections ∧
    (enterAgreed b s).meters = s.meters ∧ (enterAgreed b s).tariff = s.tariff ∧
    (enterAgreed b s).records = s.records ∧ (enterAgreed b s).settings = s.settings ∧
    (enterAgreed b s).freeCount = s.freeCount ∧ (enterAgreed b s).pending = s.pending ∧
    (∀ c, ((enterAgreed b s).berth c).inService = (s.berth c).inService) ∧
    (∀ c, ((enterAgreed b s).berth c).holder = (s.berth c).holder) ∧
    (∀ c, ((enterAgreed b s).berth c).pendingSince = (s.berth c).pendingSince) ∧
    (∀ c, ((enterAgreed b s).berth c).agreement = (s.berth c).agreement) ∧
    (∀ c, ((enterAgreed b s).berth c).causes = (s.berth c).causes) ∧
    (∀ c, ((enterAgreed b s).berth c).status = (s.berth c).status) ∧
    (∀ c, ((enterAgreed b s).berth c).moduleCount = (s.berth c).moduleCount) ∧
    (∀ c, ((enterAgreed b s).berth c).summaryReserved = (s.berth c).summaryReserved) ∧
    (∀ c, ((enterAgreed b s).berth c).linkLost = (s.berth c).linkLost) ∧
    (∀ c, ((enterAgreed b s).berth c).syncHold = (s.berth c).syncHold) ∧
    (∀ c, ((enterAgreed b s).berth c).separationCause = (s.berth c).separationCause) ∧
    (∀ c, ((enterAgreed b s).berth c).stageTimer = (s.berth c).stageTimer) ∧
    (∀ c, ((enterAgreed b s).berth c).qualification = (s.berth c).qualification) ∧
    (∀ c, (enterAgreed b s).sec c = s.sec c) ∧ (∀ c, (enterAgreed b s).unit c = s.unit c) ∧
    (∀ c, (enterAgreed b s).reference c = s.reference c) ∧ (∀ c, (enterAgreed b s).sync c = s.sync c) ∧
    (∀ c, (enterAgreed b s).ramp c = s.ramp c) ∧ (∀ c, (enterAgreed b s).meter c = s.meter c) ∧
    (∀ k, ((enterAgreed b s).links.get k).up = (s.links.get k).up) := by
  simp [enterAgreed]

/-- What `enterAgreed` leaves alone of another berth. -/
@[simp] theorem enterAgreed_others (b : Berth) (c : Berth) (h : c ≠ b) (s : State) :
    ((enterAgreed b s).berth c).stage = (s.berth c).stage := by
  simp [enterAgreed, h]

/-- What `releasingCheck` leaves alone. -/
@[simp] theorem releasingCheck_frame (b : Berth) (s : State) :
    (releasingCheck b s).now = s.now ∧ (releasingCheck b s).resetHeld = s.resetHeld ∧
    (releasingCheck b s).pool = s.pool ∧ (releasingCheck b s).references = s.references ∧
    (releasingCheck b s).port = s.port ∧ (releasingCheck b s).ramps = s.ramps ∧
    (releasingCheck b s).budget = s.budget ∧ (releasingCheck b s).sections = s.sections ∧
    (releasingCheck b s).tariff = s.tariff ∧ (releasingCheck b s).settings = s.settings ∧
    (releasingCheck b s).freeCount = s.freeCount ∧ (releasingCheck b s).pending = s.pending ∧
    (∀ c, ((releasingCheck b s).berth c).inService = (s.berth c).inService) ∧
    (∀ c, ((releasingCheck b s).berth c).causes = (s.berth c).causes) ∧
    (∀ c, ((releasingCheck b s).berth c).moduleCount = (s.berth c).moduleCount) ∧
    (∀ c, ((releasingCheck b s).berth c).summaryReserved = (s.berth c).summaryReserved) ∧
    (∀ c, ((releasingCheck b s).berth c).linkLost = (s.berth c).linkLost) ∧
    (∀ c, ((releasingCheck b s).berth c).qualification = (s.berth c).qualification) ∧
    (∀ c, (releasingCheck b s).sec c = s.sec c) ∧ (∀ c, (releasingCheck b s).reference c = s.reference c) ∧
    (∀ c, (releasingCheck b s).ramp c = s.ramp c) ∧
    (∀ k, ((releasingCheck b s).links.get k).up = (s.links.get k).up) := by
  simp [releasingCheck, ite_views, ite_record, ite_section, ite_links]

/-- What `releasingCheck` leaves alone of another berth. -/
@[simp] theorem releasingCheck_others (b : Berth) (c : Berth) (h : c ≠ b) (s : State) :
    ((releasingCheck b s).berth c).stage = (s.berth c).stage ∧
    ((releasingCheck b s).berth c).holder = (s.berth c).holder ∧
    ((releasingCheck b s).berth c).pendingSince = (s.berth c).pendingSince ∧
    ((releasingCheck b s).berth c).agreement = (s.berth c).agreement ∧
    ((releasingCheck b s).berth c).status = (s.berth c).status ∧
    ((releasingCheck b s).berth c).syncHold = (s.berth c).syncHold ∧
    ((releasingCheck b s).berth c).separationCause = (s.berth c).separationCause ∧
    (releasingCheck b s).unit c = s.unit c ∧ (releasingCheck b s).sync c = s.sync c := by
  simp [releasingCheck, ite_views, ite_record, ite_section, ite_links, h]

/-- What `releaseClose` leaves alone. -/
@[simp] theorem releaseClose_frame (b : Berth) (s : State) :
    (releaseClose b s).now = s.now ∧ (releaseClose b s).resetHeld = s.resetHeld ∧
    (releaseClose b s).units = s.units ∧ (releaseClose b s).pool = s.pool ∧
    (releaseClose b s).references = s.references ∧ (releaseClose b s).capture = s.capture ∧
    (releaseClose b s).port = s.port ∧ (releaseClose b s).ramps = s.ramps ∧
    (releaseClose b s).budget = s.budget ∧ (releaseClose b s).tariff = s.tariff ∧
    (releaseClose b s).settings = s.settings ∧ (releaseClose b s).freeCount = s.freeCount ∧
    (releaseClose b s).pending = s.pending ∧
    (∀ c, ((releaseClose b s).berth c).inService = (s.berth c).inService) ∧
    (∀ c, ((releaseClose b s).berth c).stage = (s.berth c).stage) ∧
    (∀ c, ((releaseClose b s).berth c).holder = (s.berth c).holder) ∧
    (∀ c, ((releaseClose b s).berth c).pendingSince = (s.berth c).pendingSince) ∧
    (∀ c, ((releaseClose b s).berth c).agreement = (s.berth c).agreement) ∧
    (∀ c, ((releaseClose b s).berth c).causes = (s.berth c).causes) ∧
    (∀ c, ((releaseClose b s).berth c).status = (s.berth c).status) ∧
    (∀ c, ((releaseClose b s).berth c).moduleCount = (s.berth c).moduleCount) ∧
    (∀ c, ((releaseClose b s).berth c).linkLost = (s.berth c).linkLost) ∧
    (∀ c, ((releaseClose b s).berth c).syncHold = (s.berth c).syncHold) ∧
    (∀ c, ((releaseClose b s).berth c).separationCause = (s.berth c).separationCause) ∧
    (∀ c, ((releaseClose b s).berth c).stageTimer = (s.berth c).stageTimer) ∧
    (∀ c, ((releaseClose b s).berth c).qualification = (s.berth c).qualification) ∧
    (∀ c, ((releaseClose b s).sec c).emergencyStop = (s.sec c).emergencyStop) ∧
    (∀ c, ((releaseClose b s).sec c).plugPilot = (s.sec c).plugPilot) ∧
    (∀ c, ((releaseClose b s).sec c).outletAux = (s.sec c).outletAux) ∧
    (∀ c, ((releaseClose b s).sec c).couplerAux = (s.sec c).couplerAux) ∧
    (∀ c, ((releaseClose b s).sec c).earthResult = (s.sec c).earthResult) ∧
    (∀ c, ((releaseClose b s).sec c).deferrals = (s.sec c).deferrals) ∧
    (∀ c, ((releaseClose b s).sec c).schedule = (s.sec c).schedule) ∧
    (∀ c, ((releaseClose b s).sec c).outletCommand = (s.sec c).outletCommand) ∧
    (∀ c, (releaseClose b s).unit c = s.unit c) ∧ (∀ c, (releaseClose b s).reference c = s.reference c) ∧
    (∀ c, (releaseClose b s).ramp c = s.ramp c) ∧
    (∀ k, ((releaseClose b s).links.get k).up = (s.links.get k).up) := by
  simp [releaseClose, ite_views, ite_record, ite_section, ite_links]

/-- What `releaseClose` leaves alone of another berth. -/
@[simp] theorem releaseClose_others (b : Berth) (c : Berth) (h : c ≠ b) (s : State) :
    (releaseClose b s).sync c = s.sync c := by
  simp [releaseClose, ite_views, ite_record, ite_section, ite_links, h]

/-- What `enterReleasing` leaves alone. -/
@[simp] theorem enterReleasing_frame (b : Berth) (s : State) :
    (enterReleasing b s).now = s.now ∧ (enterReleasing b s).resetHeld = s.resetHeld ∧
    (enterReleasing b s).port = s.port ∧ (enterReleasing b s).tariff = s.tariff ∧
    (enterReleasing b s).settings = s.settings ∧ (enterReleasing b s).freeCount = s.freeCount ∧
    (enterReleasing b s).pending = s.pending ∧
    (∀ c, ((enterReleasing b s).berth c).inService = (s.berth c).inService) ∧
    (∀ c, ((enterReleasing b s).berth c).causes = (s.berth c).causes) ∧
    (∀ c, ((enterReleasing b s).berth c).linkLost = (s.berth c).linkLost) ∧
    (∀ c, ((enterReleasing b s).berth c).qualification = (s.berth c).qualification) ∧
    (∀ c, ((enterReleasing b s).sec c).emergencyStop = (s.sec c).emergencyStop) ∧
    (∀ c, ((enterReleasing b s).sec c).plugPilot = (s.sec c).plugPilot) ∧
    (∀ c, ((enterReleasing b s).sec c).outletAux = (s.sec c).outletAux) ∧
    (∀ c, ((enterReleasing b s).sec c).couplerAux = (s.sec c).couplerAux) ∧
    (∀ c, ((enterReleasing b s).sec c).earthResult = (s.sec c).earthResult) ∧
    (∀ k, ((enterReleasing b s).links.get k).up = (s.links.get k).up) := by
  simp [enterReleasing]

/-- What `enterReleasing` leaves alone of another berth. -/
@[simp] theorem enterReleasing_others (b : Berth) (c : Berth) (h : c ≠ b) (s : State) :
    ((enterReleasing b s).berth c).stage = (s.berth c).stage ∧
    ((enterReleasing b s).berth c).holder = (s.berth c).holder ∧
    ((enterReleasing b s).berth c).pendingSince = (s.berth c).pendingSince ∧
    ((enterReleasing b s).berth c).agreement = (s.berth c).agreement ∧
    ((enterReleasing b s).berth c).status = (s.berth c).status ∧
    ((enterReleasing b s).berth c).syncHold = (s.berth c).syncHold ∧
    ((enterReleasing b s).berth c).separationCause = (s.berth c).separationCause ∧
    ((enterReleasing b s).sec c).deferrals = (s.sec c).deferrals ∧
    ((enterReleasing b s).sec c).schedule = (s.sec c).schedule ∧ (enterReleasing b s).unit c = s.unit c ∧
    (enterReleasing b s).reference c = s.reference c ∧ (enterReleasing b s).sync c = s.sync c := by
  simp [enterReleasing, h]

/-- What `outletOpened` leaves alone. -/
@[simp] theorem outletOpened_frame (b : Berth) (s : State) :
    (outletOpened b s).now = s.now ∧ (outletOpened b s).resetHeld = s.resetHeld ∧
    (outletOpened b s).port = s.port ∧ (outletOpened b s).tariff = s.tariff ∧
    (outletOpened b s).settings = s.settings ∧ (outletOpened b s).freeCount = s.freeCount ∧
    (outletOpened b s).pending = s.pending ∧
    (∀ c, ((outletOpened b s).berth c).inService = (s.berth c).inService) ∧
    (∀ c, ((outletOpened b s).berth c).causes = (s.berth c).causes) ∧
    (∀ c, ((outletOpened b s).berth c).linkLost = (s.berth c).linkLost) ∧
    (∀ c, ((outletOpened b s).berth c).qualification = (s.berth c).qualification) ∧
    (∀ c, ((outletOpened b s).sec c).emergencyStop = (s.sec c).emergencyStop) ∧
    (∀ c, ((outletOpened b s).sec c).plugPilot = (s.sec c).plugPilot) ∧
    (∀ c, ((outletOpened b s).sec c).outletAux = (s.sec c).outletAux) ∧
    (∀ c, ((outletOpened b s).sec c).couplerAux = (s.sec c).couplerAux) ∧
    (∀ c, ((outletOpened b s).sec c).earthResult = (s.sec c).earthResult) ∧
    (∀ k, ((outletOpened b s).links.get k).up = (s.links.get k).up) := by
  simp [outletOpened]

/-- What `outletOpened` leaves alone of another berth. -/
@[simp] theorem outletOpened_others (b : Berth) (c : Berth) (h : c ≠ b) (s : State) :
    ((outletOpened b s).berth c).stage = (s.berth c).stage ∧
    ((outletOpened b s).berth c).holder = (s.berth c).holder ∧
    ((outletOpened b s).berth c).pendingSince = (s.berth c).pendingSince ∧
    ((outletOpened b s).berth c).agreement = (s.berth c).agreement ∧
    ((outletOpened b s).berth c).status = (s.berth c).status ∧
    ((outletOpened b s).berth c).syncHold = (s.berth c).syncHold ∧
    ((outletOpened b s).berth c).separationCause = (s.berth c).separationCause ∧
    ((outletOpened b s).sec c).deferrals = (s.sec c).deferrals ∧
    ((outletOpened b s).sec c).schedule = (s.sec c).schedule ∧ (outletOpened b s).unit c = s.unit c ∧
    (outletOpened b s).reference c = s.reference c ∧ (outletOpened b s).sync c = s.sync c := by
  simp [outletOpened, h]

/-- What `openOutletSeparating` leaves alone. -/
@[simp] theorem openOutletSeparating_frame (b : Berth) (s : State) :
    (openOutletSeparating b s).now = s.now ∧ (openOutletSeparating b s).resetHeld = s.resetHeld ∧
    (openOutletSeparating b s).port = s.port ∧ (openOutletSeparating b s).tariff = s.tariff ∧
    (openOutletSeparating b s).settings = s.settings ∧ (openOutletSeparating b s).freeCount = s.freeCount ∧
    (openOutletSeparating b s).pending = s.pending ∧
    (∀ c, ((openOutletSeparating b s).berth c).inService = (s.berth c).inService) ∧
    (∀ c, ((openOutletSeparating b s).berth c).causes = (s.berth c).causes) ∧
    (∀ c, ((openOutletSeparating b s).berth c).linkLost = (s.berth c).linkLost) ∧
    (∀ c, ((openOutletSeparating b s).berth c).qualification = (s.berth c).qualification) ∧
    (∀ c, ((openOutletSeparating b s).sec c).emergencyStop = (s.sec c).emergencyStop) ∧
    (∀ c, ((openOutletSeparating b s).sec c).plugPilot = (s.sec c).plugPilot) ∧
    (∀ c, ((openOutletSeparating b s).sec c).outletAux = (s.sec c).outletAux) ∧
    (∀ c, ((openOutletSeparating b s).sec c).couplerAux = (s.sec c).couplerAux) ∧
    (∀ c, ((openOutletSeparating b s).sec c).earthResult = (s.sec c).earthResult) ∧
    (∀ k, ((openOutletSeparating b s).links.get k).up = (s.links.get k).up) := by
  simp [openOutletSeparating, ite_views, ite_record, ite_section, ite_links]

/-- What `openOutletSeparating` leaves alone of another berth. -/
@[simp] theorem openOutletSeparating_others (b : Berth) (c : Berth) (h : c ≠ b) (s : State) :
    ((openOutletSeparating b s).berth c).stage = (s.berth c).stage ∧
    ((openOutletSeparating b s).berth c).holder = (s.berth c).holder ∧
    ((openOutletSeparating b s).berth c).pendingSince = (s.berth c).pendingSince ∧
    ((openOutletSeparating b s).berth c).agreement = (s.berth c).agreement ∧
    ((openOutletSeparating b s).berth c).status = (s.berth c).status ∧
    ((openOutletSeparating b s).berth c).syncHold = (s.berth c).syncHold ∧
    ((openOutletSeparating b s).berth c).separationCause = (s.berth c).separationCause ∧
    ((openOutletSeparating b s).sec c).deferrals = (s.sec c).deferrals ∧
    ((openOutletSeparating b s).sec c).schedule = (s.sec c).schedule ∧
    (openOutletSeparating b s).unit c = s.unit c ∧ (openOutletSeparating b s).reference c = s.reference c ∧
    (openOutletSeparating b s).sync c = s.sync c := by
  simp [openOutletSeparating, ite_views, ite_record, ite_section, ite_links, h]

/-- What `enterSeparating` leaves alone. -/
@[simp] theorem enterSeparating_frame (b : Berth) (x : SeparationCause) (s : State) :
    (enterSeparating b x s).now = s.now ∧ (enterSeparating b x s).resetHeld = s.resetHeld ∧
    (enterSeparating b x s).port = s.port ∧ (enterSeparating b x s).tariff = s.tariff ∧
    (enterSeparating b x s).settings = s.settings ∧ (enterSeparating b x s).freeCount = s.freeCount ∧
    (enterSeparating b x s).pending = s.pending ∧
    (∀ c, ((enterSeparating b x s).berth c).inService = (s.berth c).inService) ∧
    (∀ c, ((enterSeparating b x s).berth c).causes = (s.berth c).causes) ∧
    (∀ c, ((enterSeparating b x s).berth c).linkLost = (s.berth c).linkLost) ∧
    (∀ c, ((enterSeparating b x s).berth c).qualification = (s.berth c).qualification) ∧
    (∀ c, ((enterSeparating b x s).sec c).emergencyStop = (s.sec c).emergencyStop) ∧
    (∀ c, ((enterSeparating b x s).sec c).plugPilot = (s.sec c).plugPilot) ∧
    (∀ c, ((enterSeparating b x s).sec c).outletAux = (s.sec c).outletAux) ∧
    (∀ c, ((enterSeparating b x s).sec c).couplerAux = (s.sec c).couplerAux) ∧
    (∀ c, ((enterSeparating b x s).sec c).earthResult = (s.sec c).earthResult) ∧
    (∀ k, ((enterSeparating b x s).links.get k).up = (s.links.get k).up) := by
  unfold enterSeparating; (try dsimp only); (repeat' split) <;> simp

/-- What `enterSeparating` leaves alone of another berth. -/
@[simp] theorem enterSeparating_others (b : Berth) (x : SeparationCause) (c : Berth) (h : c ≠ b) (s : State) :
    ((enterSeparating b x s).berth c).stage = (s.berth c).stage ∧
    ((enterSeparating b x s).berth c).holder = (s.berth c).holder ∧
    ((enterSeparating b x s).berth c).pendingSince = (s.berth c).pendingSince ∧
    ((enterSeparating b x s).berth c).agreement = (s.berth c).agreement ∧
    ((enterSeparating b x s).berth c).status = (s.berth c).status ∧
    ((enterSeparating b x s).berth c).syncHold = (s.berth c).syncHold ∧
    ((enterSeparating b x s).berth c).separationCause = (s.berth c).separationCause ∧
    ((enterSeparating b x s).sec c).deferrals = (s.sec c).deferrals ∧
    ((enterSeparating b x s).sec c).schedule = (s.sec c).schedule ∧ (enterSeparating b x s).unit c = s.unit c ∧
    (enterSeparating b x s).reference c = s.reference c ∧ (enterSeparating b x s).sync c = s.sync c := by
  unfold enterSeparating; (try dsimp only); (repeat' split) <;> simp [h]

/-- What `enterAllocating` leaves alone. -/
@[simp] theorem enterAllocating_frame (b : Berth) (s : State) :
    (enterAllocating b s).now = s.now ∧ (enterAllocating b s).resetHeld = s.resetHeld ∧
    (enterAllocating b s).units = s.units ∧ (enterAllocating b s).references = s.references ∧
    (enterAllocating b s).capture = s.capture ∧ (enterAllocating b s).port = s.port ∧
    (enterAllocating b s).syncs = s.syncs ∧ (enterAllocating b s).meters = s.meters ∧
    (enterAllocating b s).tariff = s.tariff ∧ (enterAllocating b s).records = s.records ∧
    (enterAllocating b s).settings = s.settings ∧ (enterAllocating b s).freeCount = s.freeCount ∧
    (enterAllocating b s).pending = s.pending ∧
    (∀ c, ((enterAllocating b s).berth c).inService = (s.berth c).inService) ∧
    (∀ c, ((enterAllocating b s).berth c).holder = (s.berth c).holder) ∧
    (∀ c, ((enterAllocating b s).berth c).pendingSince = (s.berth c).pendingSince) ∧
    (∀ c, ((enterAllocating b s).berth c).agreement = (s.berth c).agreement) ∧
    (∀ c, ((enterAllocating b s).berth c).causes = (s.berth c).causes) ∧
    (∀ c, ((enterAllocating b s).berth c).status = (s.berth c).status) ∧
    (∀ c, ((enterAllocating b s).berth c).summaryReserved = (s.berth c).summaryReserved) ∧
    (∀ c, ((enterAllocating b s).berth c).linkLost = (s.berth c).linkLost) ∧
    (∀ c, ((enterAllocating b s).berth c).syncHold = (s.berth c).syncHold) ∧
    (∀ c, ((enterAllocating b s).berth c).separationCause = (s.berth c).separationCause) ∧
    (∀ c, ((enterAllocating b s).berth c).qualification = (s.berth c).qualification) ∧
    (∀ c, ((enterAllocating b s).sec c).emergencyStop = (s.sec c).emergencyStop) ∧
    (∀ c, ((enterAllocating b s).sec c).plugPilot = (s.sec c).plugPilot) ∧
    (∀ c, ((enterAllocating b s).sec c).outletAux = (s.sec c).outletAux) ∧
    (∀ c, ((enterAllocating b s).sec c).couplerAux = (s.sec c).couplerAux) ∧
    (∀ c, ((enterAllocating b s).sec c).earthResult = (s.sec c).earthResult) ∧
    (∀ c, ((enterAllocating b s).sec c).deferrals = (s.sec c).deferrals) ∧
    (∀ c, ((enterAllocating b s).sec c).schedule = (s.sec c).schedule) ∧
    (∀ c, (enterAllocating b s).unit c = s.unit c) ∧ (∀ c, (enterAllocating b s).reference c = s.reference c) ∧
    (∀ c, (enterAllocating b s).sync c = s.sync c) ∧ (∀ c, (enterAllocating b s).meter c = s.meter c) ∧
    (∀ k, ((enterAllocating b s).links.get k).up = (s.links.get k).up) := by
  simp [enterAllocating]

/-- What `enterAllocating` leaves alone of another berth. -/
@[simp] theorem enterAllocating_others (b : Berth) (c : Berth) (h : c ≠ b) (s : State) :
    ((enterAllocating b s).berth c).stage = (s.berth c).stage := by
  simp [enterAllocating, h]

/-- What `enterEnergising` leaves alone. -/
@[simp] theorem enterEnergising_frame (b : Berth) (s : State) :
    (enterEnergising b s).now = s.now ∧ (enterEnergising b s).resetHeld = s.resetHeld ∧
    (enterEnergising b s).units = s.units ∧ (enterEnergising b s).pool = s.pool ∧
    (enterEnergising b s).capture = s.capture ∧ (enterEnergising b s).port = s.port ∧
    (enterEnergising b s).ramps = s.ramps ∧ (enterEnergising b s).budget = s.budget ∧
    (enterEnergising b s).meters = s.meters ∧ (enterEnergising b s).tariff = s.tariff ∧
    (enterEnergising b s).records = s.records ∧ (enterEnergising b s).settings = s.settings ∧
    (enterEnergising b s).freeCount = s.freeCount ∧ (enterEnergising b s).pending = s.pending ∧
    (∀ c, ((enterEnergising b s).berth c).inService = (s.berth c).inService) ∧
    (∀ c, ((enterEnergising b s).berth c).holder = (s.berth c).holder) ∧
    (∀ c, ((enterEnergising b s).berth c).pendingSince = (s.berth c).pendingSince) ∧
    (∀ c, ((enterEnergising b s).berth c).agreement = (s.berth c).agreement) ∧
    (∀ c, ((enterEnergising b s).berth c).causes = (s.berth c).causes) ∧
    (∀ c, ((enterEnergising b s).berth c).status = (s.berth c).status) ∧
    (∀ c, ((enterEnergising b s).berth c).moduleCount = (s.berth c).moduleCount) ∧
    (∀ c, ((enterEnergising b s).berth c).summaryReserved = (s.berth c).summaryReserved) ∧
    (∀ c, ((enterEnergising b s).berth c).linkLost = (s.berth c).linkLost) ∧
    (∀ c, ((enterEnergising b s).berth c).syncHold = (s.berth c).syncHold) ∧
    (∀ c, ((enterEnergising b s).berth c).separationCause = (s.berth c).separationCause) ∧
    (∀ c, ((enterEnergising b s).sec c).emergencyStop = (s.sec c).emergencyStop) ∧
    (∀ c, ((enterEnergising b s).sec c).plugPilot = (s.sec c).plugPilot) ∧
    (∀ c, ((enterEnergising b s).sec c).outletAux = (s.sec c).outletAux) ∧
    (∀ c, ((enterEnergising b s).sec c).couplerAux = (s.sec c).couplerAux) ∧
    (∀ c, ((enterEnergising b s).sec c).earthResult = (s.sec c).earthResult) ∧
    (∀ c, ((enterEnergising b s).sec c).outletCommand = (s.sec c).outletCommand) ∧
    (∀ c, (enterEnergising b s).unit c = s.unit c) ∧ (∀ c, (enterEnergising b s).ramp c = s.ramp c) ∧
    (∀ c, (enterEnergising b s).meter c = s.meter c) ∧
    (∀ k, ((enterEnergising b s).links.get k).up = (s.links.get k).up) := by
  simp [enterEnergising]

/-- What `enterEnergising` leaves alone of another berth. -/
@[simp] theorem enterEnergising_others (b : Berth) (c : Berth) (h : c ≠ b) (s : State) :
    ((enterEnergising b s).berth c).stage = (s.berth c).stage ∧
    ((enterEnergising b s).berth c).qualification = (s.berth c).qualification ∧
    ((enterEnergising b s).sec c).deferrals = (s.sec c).deferrals ∧
    ((enterEnergising b s).sec c).schedule = (s.sec c).schedule ∧
    (enterEnergising b s).reference c = s.reference c ∧ (enterEnergising b s).sync c = s.sync c := by
  simp [enterEnergising, h]

/-- What `enterEnergisingHeld` leaves alone. -/
@[simp] theorem enterEnergisingHeld_frame (b : Berth) (s : State) :
    (enterEnergisingHeld b s).now = s.now ∧ (enterEnergisingHeld b s).resetHeld = s.resetHeld ∧
    (enterEnergisingHeld b s).units = s.units ∧ (enterEnergisingHeld b s).pool = s.pool ∧
    (enterEnergisingHeld b s).capture = s.capture ∧ (enterEnergisingHeld b s).port = s.port ∧
    (enterEnergisingHeld b s).ramps = s.ramps ∧ (enterEnergisingHeld b s).budget = s.budget ∧
    (enterEnergisingHeld b s).sections = s.sections ∧ (enterEnergisingHeld b s).meters = s.meters ∧
    (enterEnergisingHeld b s).tariff = s.tariff ∧ (enterEnergisingHeld b s).records = s.records ∧
    (enterEnergisingHeld b s).settings = s.settings ∧ (enterEnergisingHeld b s).freeCount = s.freeCount ∧
    (enterEnergisingHeld b s).pending = s.pending ∧
    (∀ c, ((enterEnergisingHeld b s).berth c).inService = (s.berth c).inService) ∧
    (∀ c, ((enterEnergisingHeld b s).berth c).holder = (s.berth c).holder) ∧
    (∀ c, ((enterEnergisingHeld b s).berth c).pendingSince = (s.berth c).pendingSince) ∧
    (∀ c, ((enterEnergisingHeld b s).berth c).agreement = (s.berth c).agreement) ∧
    (∀ c, ((enterEnergisingHeld b s).berth c).causes = (s.berth c).causes) ∧
    (∀ c, ((enterEnergisingHeld b s).berth c).status = (s.berth c).status) ∧
    (∀ c, ((enterEnergisingHeld b s).berth c).moduleCount = (s.berth c).moduleCount) ∧
    (∀ c, ((enterEnergisingHeld b s).berth c).summaryReserved = (s.berth c).summaryReserved) ∧
    (∀ c, ((enterEnergisingHeld b s).berth c).linkLost = (s.berth c).linkLost) ∧
    (∀ c, ((enterEnergisingHeld b s).berth c).separationCause = (s.berth c).separationCause) ∧
    (∀ c, (enterEnergisingHeld b s).sec c = s.sec c) ∧ (∀ c, (enterEnergisingHeld b s).unit c = s.unit c) ∧
    (∀ c, (enterEnergisingHeld b s).ramp c = s.ramp c) ∧ (∀ c, (enterEnergisingHeld b s).meter c = s.meter c) ∧
    (∀ k, ((enterEnergisingHeld b s).links.get k).up = (s.links.get k).up) := by
  simp [enterEnergisingHeld]

/-- What `enterEnergisingHeld` leaves alone of another berth. -/
@[simp] theorem enterEnergisingHeld_others (b : Berth) (c : Berth) (h : c ≠ b) (s : State) :
    ((enterEnergisingHeld b s).berth c).stage = (s.berth c).stage ∧
    ((enterEnergisingHeld b s).berth c).syncHold = (s.berth c).syncHold ∧
    ((enterEnergisingHeld b s).berth c).qualification = (s.berth c).qualification ∧
    (enterEnergisingHeld b s).reference c = s.reference c ∧ (enterEnergisingHeld b s).sync c = s.sync c := by
  simp [enterEnergisingHeld, h]

/-- What `enterSynchronising` leaves alone. -/
@[simp] theorem enterSynchronising_frame (b : Berth) (s : State) :
    (enterSynchronising b s).now = s.now ∧ (enterSynchronising b s).resetHeld = s.resetHeld ∧
    (enterSynchronising b s).units = s.units ∧ (enterSynchronising b s).pool = s.pool ∧
    (enterSynchronising b s).capture = s.capture ∧ (enterSynchronising b s).port = s.port ∧
    (enterSynchronising b s).ramps = s.ramps ∧ (enterSynchronising b s).budget = s.budget ∧
    (enterSynchronising b s).sections = s.sections ∧ (enterSynchronising b s).meters = s.meters ∧
    (enterSynchronising b s).tariff = s.tariff ∧ (enterSynchronising b s).records = s.records ∧
    (enterSynchronising b s).settings = s.settings ∧ (enterSynchronising b s).freeCount = s.freeCount ∧
    (enterSynchronising b s).pending = s.pending ∧
    (∀ c, ((enterSynchronising b s).berth c).inService = (s.berth c).inService) ∧
    (∀ c, ((enterSynchronising b s).berth c).holder = (s.berth c).holder) ∧
    (∀ c, ((enterSynchronising b s).berth c).pendingSince = (s.berth c).pendingSince) ∧
    (∀ c, ((enterSynchronising b s).berth c).agreement = (s.berth c).agreement) ∧
    (∀ c, ((enterSynchronising b s).berth c).causes = (s.berth c).causes) ∧
    (∀ c, ((enterSynchronising b s).berth c).status = (s.berth c).status) ∧
    (∀ c, ((enterSynchronising b s).berth c).moduleCount = (s.berth c).moduleCount) ∧
    (∀ c, ((enterSynchronising b s).berth c).summaryReserved = (s.berth c).summaryReserved) ∧
    (∀ c, ((enterSynchronising b s).berth c).linkLost = (s.berth c).linkLost) ∧
    (∀ c, ((enterSynchronising b s).berth c).separationCause = (s.berth c).separationCause) ∧
    (∀ c, ((enterSynchronising b s).berth c).qualification = (s.berth c).qualification) ∧
    (∀ c, (enterSynchronising b s).sec c = s.sec c) ∧ (∀ c, (enterSynchronising b s).unit c = s.unit c) ∧
    (∀ c, (enterSynchronising b s).ramp c = s.ramp c) ∧ (∀ c, (enterSynchronising b s).meter c = s.meter c) ∧
    (∀ k, ((enterSynchronising b s).links.get k).up = (s.links.get k).up) := by
  simp [enterSynchronising]

/-- What `enterSynchronising` leaves alone of another berth. -/
@[simp] theorem enterSynchronising_others (b : Berth) (c : Berth) (h : c ≠ b) (s : State) :
    ((enterSynchronising b s).berth c).stage = (s.berth c).stage ∧
    ((enterSynchronising b s).berth c).syncHold = (s.berth c).syncHold ∧
    (enterSynchronising b s).reference c = s.reference c ∧ (enterSynchronising b s).sync c = s.sync c := by
  simp [enterSynchronising, h]

/-- What `enterParallel` leaves alone. -/
@[simp] theorem enterParallel_frame (b : Berth) (s : State) :
    (enterParallel b s).now = s.now ∧ (enterParallel b s).resetHeld = s.resetHeld ∧
    (enterParallel b s).units = s.units ∧ (enterParallel b s).capture = s.capture ∧
    (enterParallel b s).port = s.port ∧ (enterParallel b s).sections = s.sections ∧
    (enterParallel b s).tariff = s.tariff ∧ (enterParallel b s).records = s.records ∧
    (enterParallel b s).settings = s.settings ∧ (enterParallel b s).freeCount = s.freeCount ∧
    (enterParallel b s).pending = s.pending ∧
    (∀ c, ((enterParallel b s).berth c).inService = (s.berth c).inService) ∧
    (∀ c, ((enterParallel b s).berth c).holder = (s.berth c).holder) ∧
    (∀ c, ((enterParallel b s).berth c).pendingSince = (s.berth c).pendingSince) ∧
    (∀ c, ((enterParallel b s).berth c).agreement = (s.berth c).agreement) ∧
    (∀ c, ((enterParallel b s).berth c).causes = (s.berth c).causes) ∧
    (∀ c, ((enterParallel b s).berth c).status = (s.berth c).status) ∧
    (∀ c, ((enterParallel b s).berth c).moduleCount = (s.berth c).moduleCount) ∧
    (∀ c, ((enterParallel b s).berth c).summaryReserved = (s.berth c).summaryReserved) ∧
    (∀ c, ((enterParallel b s).berth c).linkLost = (s.berth c).linkLost) ∧
    (∀ c, ((enterParallel b s).berth c).syncHold = (s.berth c).syncHold) ∧
    (∀ c, ((enterParallel b s).berth c).separationCause = (s.berth c).separationCause) ∧
    (∀ c, ((enterParallel b s).berth c).stageTimer = (s.berth c).stageTimer) ∧
    (∀ c, ((enterParallel b s).berth c).qualification = (s.berth c).qualification) ∧
    (∀ c, (enterParallel b s).sec c = s.sec c) ∧ (∀ c, (enterParallel b s).unit c = s.unit c) ∧
    (∀ k, ((enterParallel b s).links.get k).up = (s.links.get k).up) := by
  simp [enterParallel]

/-- What `enterParallel` leaves alone of another berth. -/
@[simp] theorem enterParallel_others (b : Berth) (c : Berth) (h : c ≠ b) (s : State) :
    ((enterParallel b s).berth c).stage = (s.berth c).stage ∧ (enterParallel b s).reference c = s.reference c ∧
    (enterParallel b s).sync c = s.sync c := by
  simp [enterParallel, h]

/-- What `enterRampingIn` leaves alone. -/
@[simp] theorem enterRampingIn_frame (b : Berth) (s : State) :
    (enterRampingIn b s).now = s.now ∧ (enterRampingIn b s).resetHeld = s.resetHeld ∧
    (enterRampingIn b s).units = s.units ∧ (enterRampingIn b s).pool = s.pool ∧
    (enterRampingIn b s).references = s.references ∧ (enterRampingIn b s).capture = s.capture ∧
    (enterRampingIn b s).port = s.port ∧ (enterRampingIn b s).syncs = s.syncs ∧
    (enterRampingIn b s).ramps = s.ramps ∧ (enterRampingIn b s).budget = s.budget ∧
    (enterRampingIn b s).sections = s.sections ∧ (enterRampingIn b s).meters = s.meters ∧
    (enterRampingIn b s).tariff = s.tariff ∧ (enterRampingIn b s).records = s.records ∧
    (enterRampingIn b s).settings = s.settings ∧ (enterRampingIn b s).freeCount = s.freeCount ∧
    (enterRampingIn b s).pending = s.pending ∧
    (∀ c, ((enterRampingIn b s).berth c).inService = (s.berth c).inService) ∧
    (∀ c, ((enterRampingIn b s).berth c).holder = (s.berth c).holder) ∧
    (∀ c, ((enterRampingIn b s).berth c).pendingSince = (s.berth c).pendingSince) ∧
    (∀ c, ((enterRampingIn b s).berth c).agreement = (s.berth c).agreement) ∧
    (∀ c, ((enterRampingIn b s).berth c).causes = (s.berth c).causes) ∧
    (∀ c, ((enterRampingIn b s).berth c).status = (s.berth c).status) ∧
    (∀ c, ((enterRampingIn b s).berth c).moduleCount = (s.berth c).moduleCount) ∧
    (∀ c, ((enterRampingIn b s).berth c).summaryReserved = (s.berth c).summaryReserved) ∧
    (∀ c, ((enterRampingIn b s).berth c).linkLost = (s.berth c).linkLost) ∧
    (∀ c, ((enterRampingIn b s).berth c).syncHold = (s.berth c).syncHold) ∧
    (∀ c, ((enterRampingIn b s).berth c).separationCause = (s.berth c).separationCause) ∧
    (∀ c, ((enterRampingIn b s).berth c).stageTimer = (s.berth c).stageTimer) ∧
    (∀ c, ((enterRampingIn b s).berth c).qualification = (s.berth c).qualification) ∧
    (∀ c, (enterRampingIn b s).sec c = s.sec c) ∧ (∀ c, (enterRampingIn b s).unit c = s.unit c) ∧
    (∀ c, (enterRampingIn b s).reference c = s.reference c) ∧ (∀ c, (enterRampingIn b s).sync c = s.sync c) ∧
    (∀ c, (enterRampingIn b s).ramp c = s.ramp c) ∧ (∀ c, (enterRampingIn b s).meter c = s.meter c) ∧
    (∀ k, ((enterRampingIn b s).links.get k).up = (s.links.get k).up) := by
  simp [enterRampingIn]

/-- What `enterRampingIn` leaves alone of another berth. -/
@[simp] theorem enterRampingIn_others (b : Berth) (c : Berth) (h : c ≠ b) (s : State) :
    ((enterRampingIn b s).berth c).stage = (s.berth c).stage := by
  simp [enterRampingIn, h]

/-- What `enterShoreCarrying` leaves alone. -/
@[simp] theorem enterShoreCarrying_frame (b : Berth) (s : State) :
    (enterShoreCarrying b s).now = s.now ∧ (enterShoreCarrying b s).resetHeld = s.resetHeld ∧
    (enterShoreCarrying b s).units = s.units ∧ (enterShoreCarrying b s).pool = s.pool ∧
    (enterShoreCarrying b s).capture = s.capture ∧ (enterShoreCarrying b s).port = s.port ∧
    (enterShoreCarrying b s).syncs = s.syncs ∧ (enterShoreCarrying b s).meters = s.meters ∧
    (enterShoreCarrying b s).tariff = s.tariff ∧ (enterShoreCarrying b s).records = s.records ∧
    (enterShoreCarrying b s).settings = s.settings ∧ (enterShoreCarrying b s).freeCount = s.freeCount ∧
    (enterShoreCarrying b s).pending = s.pending ∧
    (∀ c, ((enterShoreCarrying b s).berth c).inService = (s.berth c).inService) ∧
    (∀ c, ((enterShoreCarrying b s).berth c).holder = (s.berth c).holder) ∧
    (∀ c, ((enterShoreCarrying b s).berth c).pendingSince = (s.berth c).pendingSince) ∧
    (∀ c, ((enterShoreCarrying b s).berth c).agreement = (s.berth c).agreement) ∧
    (∀ c, ((enterShoreCarrying b s).berth c).causes = (s.berth c).causes) ∧
    (∀ c, ((enterShoreCarrying b s).berth c).status = (s.berth c).status) ∧
    (∀ c, ((enterShoreCarrying b s).berth c).moduleCount = (s.berth c).moduleCount) ∧
    (∀ c, ((enterShoreCarrying b s).berth c).summaryReserved = (s.berth c).summaryReserved) ∧
    (∀ c, ((enterShoreCarrying b s).berth c).linkLost = (s.berth c).linkLost) ∧
    (∀ c, ((enterShoreCarrying b s).berth c).syncHold = (s.berth c).syncHold) ∧
    (∀ c, ((enterShoreCarrying b s).berth c).separationCause = (s.berth c).separationCause) ∧
    (∀ c, ((enterShoreCarrying b s).berth c).stageTimer = (s.berth c).stageTimer) ∧
    (∀ c, ((enterShoreCarrying b s).berth c).qualification = (s.berth c).qualification) ∧
    (∀ c, ((enterShoreCarrying b s).sec c).emergencyStop = (s.sec c).emergencyStop) ∧
    (∀ c, ((enterShoreCarrying b s).sec c).plugPilot = (s.sec c).plugPilot) ∧
    (∀ c, ((enterShoreCarrying b s).sec c).outletAux = (s.sec c).outletAux) ∧
    (∀ c, ((enterShoreCarrying b s).sec c).couplerAux = (s.sec c).couplerAux) ∧
    (∀ c, ((enterShoreCarrying b s).sec c).earthResult = (s.sec c).earthResult) ∧
    (∀ c, ((enterShoreCarrying b s).sec c).deferrals = (s.sec c).deferrals) ∧
    (∀ c, ((enterShoreCarrying b s).sec c).schedule = (s.sec c).schedule) ∧
    (∀ c, ((enterShoreCarrying b s).sec c).outletCommand = (s.sec c).outletCommand) ∧
    (∀ c, (enterShoreCarrying b s).unit c = s.unit c) ∧ (∀ c, (enterShoreCarrying b s).sync c = s.sync c) ∧
    (∀ c, (enterShoreCarrying b s).meter c = s.meter c) ∧
    (∀ k, ((enterShoreCarrying b s).links.get k).up = (s.links.get k).up) := by
  simp [enterShoreCarrying]

/-- What `enterShoreCarrying` leaves alone of another berth. -/
@[simp] theorem enterShoreCarrying_others (b : Berth) (c : Berth) (h : c ≠ b) (s : State) :
    ((enterShoreCarrying b s).berth c).stage = (s.berth c).stage ∧
    (enterShoreCarrying b s).reference c = s.reference c := by
  simp [enterShoreCarrying, h]

/-- What `separationTest` leaves alone. -/
@[simp] theorem separationTest_frame (b : Berth) (s : State) :
    (separationTest b s).now = s.now ∧ (separationTest b s).resetHeld = s.resetHeld ∧
    (separationTest b s).port = s.port ∧ (separationTest b s).tariff = s.tariff ∧
    (separationTest b s).settings = s.settings ∧ (separationTest b s).freeCount = s.freeCount ∧
    (separationTest b s).pending = s.pending ∧
    (∀ c, ((separationTest b s).berth c).inService = (s.berth c).inService) ∧
    (∀ c, ((separationTest b s).berth c).causes = (s.berth c).causes) ∧
    (∀ c, ((separationTest b s).berth c).linkLost = (s.berth c).linkLost) ∧
    (∀ c, ((separationTest b s).berth c).qualification = (s.berth c).qualification) ∧
    (∀ c, ((separationTest b s).sec c).emergencyStop = (s.sec c).emergencyStop) ∧
    (∀ c, ((separationTest b s).sec c).plugPilot = (s.sec c).plugPilot) ∧
    (∀ c, ((separationTest b s).sec c).outletAux = (s.sec c).outletAux) ∧
    (∀ c, ((separationTest b s).sec c).couplerAux = (s.sec c).couplerAux) ∧
    (∀ c, ((separationTest b s).sec c).earthResult = (s.sec c).earthResult) ∧
    (∀ k, ((separationTest b s).links.get k).up = (s.links.get k).up) := by
  simp [separationTest, ite_views, ite_record, ite_section, ite_links]

/-- What `separationTest` leaves alone of another berth. -/
@[simp] theorem separationTest_others (b : Berth) (c : Berth) (h : c ≠ b) (s : State) :
    ((separationTest b s).berth c).stage = (s.berth c).stage ∧
    ((separationTest b s).berth c).holder = (s.berth c).holder ∧
    ((separationTest b s).berth c).pendingSince = (s.berth c).pendingSince ∧
    ((separationTest b s).berth c).agreement = (s.berth c).agreement ∧
    ((separationTest b s).berth c).status = (s.berth c).status ∧
    ((separationTest b s).berth c).syncHold = (s.berth c).syncHold ∧
    ((separationTest b s).berth c).separationCause = (s.berth c).separationCause ∧
    ((separationTest b s).sec c).deferrals = (s.sec c).deferrals ∧
    ((separationTest b s).sec c).schedule = (s.sec c).schedule ∧ (separationTest b s).unit c = s.unit c ∧
    (separationTest b s).reference c = s.reference c ∧ (separationTest b s).sync c = s.sync c := by
  simp [separationTest, ite_views, ite_record, ite_section, ite_links, h]

/-- What `separationTestOrWait` leaves alone. -/
@[simp] theorem separationTestOrWait_frame (b : Berth) (s : State) :
    (separationTestOrWait b s).now = s.now ∧ (separationTestOrWait b s).resetHeld = s.resetHeld ∧
    (separationTestOrWait b s).port = s.port ∧ (separationTestOrWait b s).tariff = s.tariff ∧
    (separationTestOrWait b s).settings = s.settings ∧ (separationTestOrWait b s).freeCount = s.freeCount ∧
    (separationTestOrWait b s).pending = s.pending ∧
    (∀ c, ((separationTestOrWait b s).berth c).inService = (s.berth c).inService) ∧
    (∀ c, ((separationTestOrWait b s).berth c).causes = (s.berth c).causes) ∧
    (∀ c, ((separationTestOrWait b s).berth c).linkLost = (s.berth c).linkLost) ∧
    (∀ c, ((separationTestOrWait b s).berth c).qualification = (s.berth c).qualification) ∧
    (∀ c, ((separationTestOrWait b s).sec c).emergencyStop = (s.sec c).emergencyStop) ∧
    (∀ c, ((separationTestOrWait b s).sec c).plugPilot = (s.sec c).plugPilot) ∧
    (∀ c, ((separationTestOrWait b s).sec c).outletAux = (s.sec c).outletAux) ∧
    (∀ c, ((separationTestOrWait b s).sec c).couplerAux = (s.sec c).couplerAux) ∧
    (∀ c, ((separationTestOrWait b s).sec c).earthResult = (s.sec c).earthResult) ∧
    (∀ k, ((separationTestOrWait b s).links.get k).up = (s.links.get k).up) := by
  simp [separationTestOrWait, ite_views, ite_record, ite_section, ite_links]

/-- What `separationTestOrWait` leaves alone of another berth. -/
@[simp] theorem separationTestOrWait_others (b : Berth) (c : Berth) (h : c ≠ b) (s : State) :
    ((separationTestOrWait b s).berth c).stage = (s.berth c).stage ∧
    ((separationTestOrWait b s).berth c).holder = (s.berth c).holder ∧
    ((separationTestOrWait b s).berth c).pendingSince = (s.berth c).pendingSince ∧
    ((separationTestOrWait b s).berth c).agreement = (s.berth c).agreement ∧
    ((separationTestOrWait b s).berth c).status = (s.berth c).status ∧
    ((separationTestOrWait b s).berth c).syncHold = (s.berth c).syncHold ∧
    ((separationTestOrWait b s).berth c).separationCause = (s.berth c).separationCause ∧
    ((separationTestOrWait b s).sec c).deferrals = (s.sec c).deferrals ∧
    ((separationTestOrWait b s).sec c).schedule = (s.sec c).schedule ∧
    (separationTestOrWait b s).unit c = s.unit c ∧ (separationTestOrWait b s).reference c = s.reference c ∧
    (separationTestOrWait b s).sync c = s.sync c := by
  simp [separationTestOrWait, ite_views, ite_record, ite_section, ite_links, h]

/-- What `enterRampingOut` leaves alone. -/
@[simp] theorem enterRampingOut_frame (b : Berth) (r : Nat) (s : State) :
    (enterRampingOut b r s).now = s.now ∧ (enterRampingOut b r s).resetHeld = s.resetHeld ∧
    (enterRampingOut b r s).port = s.port ∧ (enterRampingOut b r s).tariff = s.tariff ∧
    (enterRampingOut b r s).settings = s.settings ∧ (enterRampingOut b r s).freeCount = s.freeCount ∧
    (enterRampingOut b r s).pending = s.pending ∧
    (∀ c, ((enterRampingOut b r s).berth c).inService = (s.berth c).inService) ∧
    (∀ c, ((enterRampingOut b r s).berth c).causes = (s.berth c).causes) ∧
    (∀ c, ((enterRampingOut b r s).berth c).linkLost = (s.berth c).linkLost) ∧
    (∀ c, ((enterRampingOut b r s).berth c).qualification = (s.berth c).qualification) ∧
    (∀ c, ((enterRampingOut b r s).sec c).emergencyStop = (s.sec c).emergencyStop) ∧
    (∀ c, ((enterRampingOut b r s).sec c).plugPilot = (s.sec c).plugPilot) ∧
    (∀ c, ((enterRampingOut b r s).sec c).outletAux = (s.sec c).outletAux) ∧
    (∀ c, ((enterRampingOut b r s).sec c).couplerAux = (s.sec c).couplerAux) ∧
    (∀ c, ((enterRampingOut b r s).sec c).earthResult = (s.sec c).earthResult) ∧
    (∀ k, ((enterRampingOut b r s).links.get k).up = (s.links.get k).up) := by
  simp [enterRampingOut, ite_views, ite_record, ite_section, ite_links]

/-- What `enterRampingOut` leaves alone of another berth. -/
@[simp] theorem enterRampingOut_others (b : Berth) (r : Nat) (c : Berth) (h : c ≠ b) (s : State) :
    ((enterRampingOut b r s).berth c).stage = (s.berth c).stage ∧
    ((enterRampingOut b r s).berth c).holder = (s.berth c).holder ∧
    ((enterRampingOut b r s).berth c).pendingSince = (s.berth c).pendingSince ∧
    ((enterRampingOut b r s).berth c).agreement = (s.berth c).agreement ∧
    ((enterRampingOut b r s).berth c).status = (s.berth c).status ∧
    ((enterRampingOut b r s).berth c).syncHold = (s.berth c).syncHold ∧
    ((enterRampingOut b r s).berth c).separationCause = (s.berth c).separationCause ∧
    ((enterRampingOut b r s).sec c).deferrals = (s.sec c).deferrals ∧
    ((enterRampingOut b r s).sec c).schedule = (s.sec c).schedule ∧ (enterRampingOut b r s).unit c = s.unit c ∧
    (enterRampingOut b r s).reference c = s.reference c ∧ (enterRampingOut b r s).sync c = s.sync c := by
  simp [enterRampingOut, ite_views, ite_record, ite_section, ite_links, h]

/-- What `enterTripped` leaves alone. -/
@[simp] theorem enterTripped_frame (b : Berth) (x : TripCause) (s : State) :
    (enterTripped b x s).now = s.now ∧ (enterTripped b x s).resetHeld = s.resetHeld ∧
    (enterTripped b x s).capture = s.capture ∧ (enterTripped b x s).port = s.port ∧
    (enterTripped b x s).tariff = s.tariff ∧ (enterTripped b x s).settings = s.settings ∧
    (enterTripped b x s).freeCount = s.freeCount ∧ (enterTripped b x s).pending = s.pending ∧
    (∀ c, ((enterTripped b x s).berth c).inService = (s.berth c).inService) ∧
    (∀ c, ((enterTripped b x s).berth c).agreement = (s.berth c).agreement) ∧
    (∀ c, ((enterTripped b x s).berth c).status = (s.berth c).status) ∧
    (∀ c, ((enterTripped b x s).berth c).linkLost = (s.berth c).linkLost) ∧
    (∀ c, ((enterTripped b x s).berth c).separationCause = (s.berth c).separationCause) ∧
    (∀ c, ((enterTripped b x s).berth c).qualification = (s.berth c).qualification) ∧
    (∀ c, ((enterTripped b x s).sec c).emergencyStop = (s.sec c).emergencyStop) ∧
    (∀ c, ((enterTripped b x s).sec c).plugPilot = (s.sec c).plugPilot) ∧
    (∀ c, ((enterTripped b x s).sec c).outletAux = (s.sec c).outletAux) ∧
    (∀ c, ((enterTripped b x s).sec c).couplerAux = (s.sec c).couplerAux) ∧
    (∀ c, ((enterTripped b x s).sec c).earthResult = (s.sec c).earthResult) ∧
    (∀ k, ((enterTripped b x s).links.get k).up = (s.links.get k).up) := by
  simp [enterTripped, ite_views, ite_record, ite_section, ite_links]

/-- What `enterTripped` leaves alone of another berth. -/
@[simp] theorem enterTripped_others (b : Berth) (x : TripCause) (c : Berth) (h : c ≠ b) (s : State) :
    ((enterTripped b x s).berth c).stage = (s.berth c).stage ∧
    ((enterTripped b x s).berth c).holder = (s.berth c).holder ∧
    ((enterTripped b x s).berth c).pendingSince = (s.berth c).pendingSince ∧
    ((enterTripped b x s).berth c).causes = (s.berth c).causes ∧
    ((enterTripped b x s).berth c).syncHold = (s.berth c).syncHold ∧
    ((enterTripped b x s).sec c).deferrals = (s.sec c).deferrals ∧
    ((enterTripped b x s).sec c).schedule = (s.sec c).schedule ∧ (enterTripped b x s).unit c = s.unit c ∧
    (enterTripped b x s).reference c = s.reference c ∧ (enterTripped b x s).sync c = s.sync c := by
  simp [enterTripped, ite_views, ite_record, ite_section, ite_links, h]

/-- What `raiseCause` leaves alone. -/
@[simp] theorem raiseCause_frame (b : Berth) (x : TripCause) (s : State) :
    (raiseCause b x s).now = s.now ∧ (raiseCause b x s).resetHeld = s.resetHeld ∧
    (raiseCause b x s).capture = s.capture ∧ (raiseCause b x s).port = s.port ∧
    (raiseCause b x s).tariff = s.tariff ∧ (raiseCause b x s).settings = s.settings ∧
    (raiseCause b x s).freeCount = s.freeCount ∧ (raiseCause b x s).pending = s.pending ∧
    (∀ c, ((raiseCause b x s).berth c).inService = (s.berth c).inService) ∧
    (∀ c, ((raiseCause b x s).berth c).agreement = (s.berth c).agreement) ∧
    (∀ c, ((raiseCause b x s).berth c).status = (s.berth c).status) ∧
    (∀ c, ((raiseCause b x s).berth c).linkLost = (s.berth c).linkLost) ∧
    (∀ c, ((raiseCause b x s).berth c).separationCause = (s.berth c).separationCause) ∧
    (∀ c, ((raiseCause b x s).berth c).qualification = (s.berth c).qualification) ∧
    (∀ c, ((raiseCause b x s).sec c).emergencyStop = (s.sec c).emergencyStop) ∧
    (∀ c, ((raiseCause b x s).sec c).plugPilot = (s.sec c).plugPilot) ∧
    (∀ c, ((raiseCause b x s).sec c).outletAux = (s.sec c).outletAux) ∧
    (∀ c, ((raiseCause b x s).sec c).couplerAux = (s.sec c).couplerAux) ∧
    (∀ c, ((raiseCause b x s).sec c).earthResult = (s.sec c).earthResult) ∧
    (∀ k, ((raiseCause b x s).links.get k).up = (s.links.get k).up) := by
  simp [raiseCause, ite_views, ite_record, ite_section, ite_links]

/-- What `raiseCause` leaves alone of another berth. -/
@[simp] theorem raiseCause_others (b : Berth) (x : TripCause) (c : Berth) (h : c ≠ b) (s : State) :
    ((raiseCause b x s).berth c).stage = (s.berth c).stage ∧
    ((raiseCause b x s).berth c).holder = (s.berth c).holder ∧
    ((raiseCause b x s).berth c).pendingSince = (s.berth c).pendingSince ∧
    ((raiseCause b x s).berth c).causes = (s.berth c).causes ∧
    ((raiseCause b x s).berth c).syncHold = (s.berth c).syncHold ∧
    ((raiseCause b x s).sec c).deferrals = (s.sec c).deferrals ∧
    ((raiseCause b x s).sec c).schedule = (s.sec c).schedule ∧ (raiseCause b x s).unit c = s.unit c ∧
    (raiseCause b x s).reference c = s.reference c ∧ (raiseCause b x s).sync c = s.sync c := by
  simp [raiseCause, ite_views, ite_record, ite_section, ite_links, h]

/-- What `readinessCheck` leaves alone. -/
@[simp] theorem readinessCheck_frame (b : Berth) (s : State) :
    (readinessCheck b s).now = s.now ∧ (readinessCheck b s).resetHeld = s.resetHeld ∧
    (readinessCheck b s).units = s.units ∧ (readinessCheck b s).pool = s.pool ∧
    (readinessCheck b s).capture = s.capture ∧ (readinessCheck b s).port = s.port ∧
    (readinessCheck b s).ramps = s.ramps ∧ (readinessCheck b s).budget = s.budget ∧
    (readinessCheck b s).sections = s.sections ∧ (readinessCheck b s).meters = s.meters ∧
    (readinessCheck b s).tariff = s.tariff ∧ (readinessCheck b s).records = s.records ∧
    (readinessCheck b s).settings = s.settings ∧ (readinessCheck b s).freeCount = s.freeCount ∧
    (readinessCheck b s).pending = s.pending ∧
    (∀ c, ((readinessCheck b s).berth c).inService = (s.berth c).inService) ∧
    (∀ c, ((readinessCheck b s).berth c).holder = (s.berth c).holder) ∧
    (∀ c, ((readinessCheck b s).berth c).pendingSince = (s.berth c).pendingSince) ∧
    (∀ c, ((readinessCheck b s).berth c).agreement = (s.berth c).agreement) ∧
    (∀ c, ((readinessCheck b s).berth c).causes = (s.berth c).causes) ∧
    (∀ c, ((readinessCheck b s).berth c).status = (s.berth c).status) ∧
    (∀ c, ((readinessCheck b s).berth c).moduleCount = (s.berth c).moduleCount) ∧
    (∀ c, ((readinessCheck b s).berth c).summaryReserved = (s.berth c).summaryReserved) ∧
    (∀ c, ((readinessCheck b s).berth c).linkLost = (s.berth c).linkLost) ∧
    (∀ c, ((readinessCheck b s).berth c).separationCause = (s.berth c).separationCause) ∧
    (∀ c, ((readinessCheck b s).berth c).qualification = (s.berth c).qualification) ∧
    (∀ c, (readinessCheck b s).sec c = s.sec c) ∧ (∀ c, (readinessCheck b s).unit c = s.unit c) ∧
    (∀ c, (readinessCheck b s).ramp c = s.ramp c) ∧ (∀ c, (readinessCheck b s).meter c = s.meter c) ∧
    (∀ k, ((readinessCheck b s).links.get k).up = (s.links.get k).up) := by
  unfold readinessCheck; (try dsimp only); (repeat' split) <;> simp

/-- What `readinessCheck` leaves alone of another berth. -/
@[simp] theorem readinessCheck_others (b : Berth) (c : Berth) (h : c ≠ b) (s : State) :
    ((readinessCheck b s).berth c).stage = (s.berth c).stage ∧
    ((readinessCheck b s).berth c).syncHold = (s.berth c).syncHold ∧
    (readinessCheck b s).reference c = s.reference c ∧ (readinessCheck b s).sync c = s.sync c := by
  unfold readinessCheck; (try dsimp only); (repeat' split) <;> simp [h]

/-- The ship crossing at or before an outlet crossing is the latest where that does not lie after it (R88). -/
theorem CaptureRecord.crossingBefore_latest {z : CaptureRecord} {tOut l : TimeStamp} (hl : z.latest = some l)
    (h : (tOut - l).toNat < 2 ^ 31) : z.crossingBefore tOut = some l := by
  simp only [CaptureRecord.crossingBefore, hl, if_pos h]

/-- It is the previous crossing, if any, where the latest lies after the outlet crossing (R88). -/
theorem CaptureRecord.crossingBefore_previous {z : CaptureRecord} {tOut l : TimeStamp} (hl : z.latest = some l)
    (h : 2 ^ 31 ≤ (tOut - l).toNat) : z.crossingBefore tOut = z.previous := by
  simp only [CaptureRecord.crossingBefore, hl, if_neg (Nat.not_lt.mpr h)]

/-- There is none without a latest crossing (R88). -/
theorem CaptureRecord.crossingBefore_none {z : CaptureRecord} {tOut : TimeStamp} (hl : z.latest = none) :
    z.crossingBefore tOut = none := by
  simp only [CaptureRecord.crossingBefore, hl]

/-- The voltage difference is the larger voltage less the smaller (R90). -/
theorem voltageDifference_eq (u v : BitVec 16) :
    voltageDifference u v = max u.toNat v.toNat - min u.toNat v.toNat := by
  unfold voltageDifference; omega

end Sys2Proof.Machine
end

