-- ==== Sys2Proof/Laws/Events.lean ====
section
/-! SUPPORT. What the Synchroniser, the sample port, the Protection Unit and the frames' arrival leave alone: for each
operation one lemma for every berth, and one for the berths other than its own. -/

namespace Sys2Proof.Machine

set_option linter.unusedSimpArgs false

/-- What `recordComputation` leaves alone. -/
@[simp] theorem recordComputation_frame (b : Berth) (x : Computation) (n : Nat) (s : State) :
    (recordComputation b x n s).now = s.now ∧ (recordComputation b x n s).resetHeld = s.resetHeld ∧
    (recordComputation b x n s).links = s.links ∧ (recordComputation b x n s).berths = s.berths ∧
    (recordComputation b x n s).units = s.units ∧ (recordComputation b x n s).pool = s.pool ∧
    (recordComputation b x n s).references = s.references ∧ (recordComputation b x n s).capture = s.capture ∧
    (recordComputation b x n s).port = s.port ∧ (recordComputation b x n s).ramps = s.ramps ∧
    (recordComputation b x n s).budget = s.budget ∧ (recordComputation b x n s).sections = s.sections ∧
    (recordComputation b x n s).meters = s.meters ∧ (recordComputation b x n s).tariff = s.tariff ∧
    (recordComputation b x n s).records = s.records ∧ (recordComputation b x n s).settings = s.settings ∧
    (recordComputation b x n s).sent = s.sent ∧ (recordComputation b x n s).freeCount = s.freeCount ∧
    (recordComputation b x n s).pending = s.pending ∧ (∀ c, (recordComputation b x n s).berth c = s.berth c) ∧
    (∀ c, (recordComputation b x n s).sec c = s.sec c) ∧ (∀ c, (recordComputation b x n s).unit c = s.unit c) ∧
    (∀ c, (recordComputation b x n s).reference c = s.reference c) ∧
    (∀ c, (recordComputation b x n s).ramp c = s.ramp c) ∧
    (∀ c, (recordComputation b x n s).meter c = s.meter c) := by
  simp [recordComputation]

/-- What `driveClose` leaves alone. -/
@[simp] theorem driveClose_frame (b : Berth) (s : State) :
    (driveClose b s).now = s.now ∧ (driveClose b s).resetHeld = s.resetHeld ∧ (driveClose b s).links = s.links ∧
    (driveClose b s).berths = s.berths ∧ (driveClose b s).units = s.units ∧ (driveClose b s).pool = s.pool ∧
    (driveClose b s).references = s.references ∧ (driveClose b s).capture = s.capture ∧
    (driveClose b s).port = s.port ∧ (driveClose b s).ramps = s.ramps ∧ (driveClose b s).budget = s.budget ∧
    (driveClose b s).sections = s.sections ∧ (driveClose b s).meters = s.meters ∧
    (driveClose b s).tariff = s.tariff ∧ (driveClose b s).records = s.records ∧
    (driveClose b s).settings = s.settings ∧ (driveClose b s).sent = s.sent ∧
    (driveClose b s).freeCount = s.freeCount ∧ (driveClose b s).pending = s.pending ∧
    (∀ c, (driveClose b s).berth c = s.berth c) ∧ (∀ c, (driveClose b s).sec c = s.sec c) ∧
    (∀ c, (driveClose b s).unit c = s.unit c) ∧ (∀ c, (driveClose b s).reference c = s.reference c) ∧
    (∀ c, (driveClose b s).ramp c = s.ramp c) ∧ (∀ c, (driveClose b s).meter c = s.meter c) := by
  simp [driveClose]

/-- What `driveClose` leaves alone of another berth. -/
@[simp] theorem driveClose_others (b : Berth) (c : Berth) (h : c ≠ b) (s : State) :
    (driveClose b s).sync c = s.sync c := by
  simp [driveClose, h]

theorem attemptClose_eq (b : Berth) (c : Computation) (count : Nat) (s : State) :
    attemptClose b c count s =
      match (s.sec b).couplerAux with
      | .closed => (recordComputation b c count s).modSync b fun y => { y with count := 0 }
      | .opened =>
        if (reserveSummary b s).2 then driveClose b (recordComputation b c count (reserveSummary b s).1)
        else latchTariff .poolLow (latchShore .poolLow
          (recordComputation b { c with verdict := .poolLow } 0 (reserveSummary b s).1)) := by
  unfold attemptClose
  cases (s.sec b).couplerAux with
  | closed => rfl
  | opened => rcases reserveSummary b s with ⟨t, _ | _⟩ <;> rfl

/-- What `attemptClose` leaves alone. -/
@[simp] theorem attemptClose_frame (b : Berth) (x : Computation) (n : Nat) (s : State) :
    (attemptClose b x n s).now = s.now ∧ (attemptClose b x n s).resetHeld = s.resetHeld ∧
    (attemptClose b x n s).units = s.units ∧ (attemptClose b x n s).pool = s.pool ∧
    (attemptClose b x n s).references = s.references ∧ (attemptClose b x n s).capture = s.capture ∧
    (attemptClose b x n s).port = s.port ∧ (attemptClose b x n s).ramps = s.ramps ∧
    (attemptClose b x n s).budget = s.budget ∧ (attemptClose b x n s).sections = s.sections ∧
    (attemptClose b x n s).meters = s.meters ∧ (attemptClose b x n s).tariff = s.tariff ∧
    (attemptClose b x n s).settings = s.settings ∧ (attemptClose b x n s).freeCount = s.freeCount ∧
    (attemptClose b x n s).pending = s.pending ∧
    (∀ c, ((attemptClose b x n s).berth c).inService = (s.berth c).inService) ∧
    (∀ c, ((attemptClose b x n s).berth c).stage = (s.berth c).stage) ∧
    (∀ c, ((attemptClose b x n s).berth c).holder = (s.berth c).holder) ∧
    (∀ c, ((attemptClose b x n s).berth c).pendingSince = (s.berth c).pendingSince) ∧
    (∀ c, ((attemptClose b x n s).berth c).agreement = (s.berth c).agreement) ∧
    (∀ c, ((attemptClose b x n s).berth c).causes = (s.berth c).causes) ∧
    (∀ c, ((attemptClose b x n s).berth c).status = (s.berth c).status) ∧
    (∀ c, ((attemptClose b x n s).berth c).moduleCount = (s.berth c).moduleCount) ∧
    (∀ c, ((attemptClose b x n s).berth c).linkLost = (s.berth c).linkLost) ∧
    (∀ c, ((attemptClose b x n s).berth c).syncHold = (s.berth c).syncHold) ∧
    (∀ c, ((attemptClose b x n s).berth c).separationCause = (s.berth c).separationCause) ∧
    (∀ c, ((attemptClose b x n s).berth c).stageTimer = (s.berth c).stageTimer) ∧
    (∀ c, ((attemptClose b x n s).berth c).qualification = (s.berth c).qualification) ∧
    (∀ c, (attemptClose b x n s).sec c = s.sec c) ∧ (∀ c, (attemptClose b x n s).unit c = s.unit c) ∧
    (∀ c, (attemptClose b x n s).reference c = s.reference c) ∧
    (∀ c, (attemptClose b x n s).ramp c = s.ramp c) ∧ (∀ c, (attemptClose b x n s).meter c = s.meter c) ∧
    (∀ k, ((attemptClose b x n s).links.get k).up = (s.links.get k).up) := by
  rw [attemptClose_eq]; (repeat' split) <;> simp

/-- What `outletCrossing` leaves alone. -/
@[simp] theorem outletCrossing_frame (b : Berth) (t : TimeStamp) (s : State) :
    (outletCrossing b t s).now = s.now ∧ (outletCrossing b t s).resetHeld = s.resetHeld ∧
    (outletCrossing b t s).units = s.units ∧ (outletCrossing b t s).pool = s.pool ∧
    (outletCrossing b t s).references = s.references ∧ (outletCrossing b t s).capture = s.capture ∧
    (outletCrossing b t s).port = s.port ∧ (outletCrossing b t s).ramps = s.ramps ∧
    (outletCrossing b t s).budget = s.budget ∧ (outletCrossing b t s).sections = s.sections ∧
    (outletCrossing b t s).meters = s.meters ∧ (outletCrossing b t s).tariff = s.tariff ∧
    (outletCrossing b t s).settings = s.settings ∧ (outletCrossing b t s).freeCount = s.freeCount ∧
    (outletCrossing b t s).pending = s.pending ∧
    (∀ c, ((outletCrossing b t s).berth c).inService = (s.berth c).inService) ∧
    (∀ c, ((outletCrossing b t s).berth c).stage = (s.berth c).stage) ∧
    (∀ c, ((outletCrossing b t s).berth c).holder = (s.berth c).holder) ∧
    (∀ c, ((outletCrossing b t s).berth c).pendingSince = (s.berth c).pendingSince) ∧
    (∀ c, ((outletCrossing b t s).berth c).agreement = (s.berth c).agreement) ∧
    (∀ c, ((outletCrossing b t s).berth c).causes = (s.berth c).causes) ∧
    (∀ c, ((outletCrossing b t s).berth c).status = (s.berth c).status) ∧
    (∀ c, ((outletCrossing b t s).berth c).moduleCount = (s.berth c).moduleCount) ∧
    (∀ c, ((outletCrossing b t s).berth c).linkLost = (s.berth c).linkLost) ∧
    (∀ c, ((outletCrossing b t s).berth c).syncHold = (s.berth c).syncHold) ∧
    (∀ c, ((outletCrossing b t s).berth c).separationCause = (s.berth c).separationCause) ∧
    (∀ c, ((outletCrossing b t s).berth c).stageTimer = (s.berth c).stageTimer) ∧
    (∀ c, ((outletCrossing b t s).berth c).qualification = (s.berth c).qualification) ∧
    (∀ c, (outletCrossing b t s).sec c = s.sec c) ∧ (∀ c, (outletCrossing b t s).unit c = s.unit c) ∧
    (∀ c, (outletCrossing b t s).reference c = s.reference c) ∧
    (∀ c, (outletCrossing b t s).ramp c = s.ramp c) ∧ (∀ c, (outletCrossing b t s).meter c = s.meter c) ∧
    (∀ k, ((outletCrossing b t s).links.get k).up = (s.links.get k).up) := by
  unfold outletCrossing; (try dsimp only); (repeat' split) <;> simp

/-- What `closeFailed` leaves alone. -/
@[simp] theorem closeFailed_frame (b : Berth) (s : State) :
    (closeFailed b s).now = s.now ∧ (closeFailed b s).resetHeld = s.resetHeld ∧
    (closeFailed b s).port = s.port ∧ (closeFailed b s).tariff = s.tariff ∧
    (closeFailed b s).settings = s.settings ∧ (closeFailed b s).freeCount = s.freeCount ∧
    (closeFailed b s).pending = s.pending ∧
    (∀ c, ((closeFailed b s).berth c).inService = (s.berth c).inService) ∧
    (∀ c, ((closeFailed b s).berth c).linkLost = (s.berth c).linkLost) ∧
    (∀ c, ((closeFailed b s).sec c).emergencyStop = (s.sec c).emergencyStop) ∧
    (∀ c, ((closeFailed b s).sec c).plugPilot = (s.sec c).plugPilot) ∧
    (∀ c, ((closeFailed b s).sec c).outletAux = (s.sec c).outletAux) ∧
    (∀ c, ((closeFailed b s).sec c).couplerAux = (s.sec c).couplerAux) ∧
    (∀ c, ((closeFailed b s).sec c).earthResult = (s.sec c).earthResult) ∧
    (∀ k, ((closeFailed b s).links.get k).up = (s.links.get k).up) := by
  simp [closeFailed, ite_views, ite_record, ite_section, ite_links]

/-- What `closeFailed` leaves alone of another berth. -/
@[simp] theorem closeFailed_others (b : Berth) (c : Berth) (h : c ≠ b) (s : State) :
    ((closeFailed b s).berth c).stage = (s.berth c).stage ∧
    ((closeFailed b s).berth c).holder = (s.berth c).holder ∧
    ((closeFailed b s).berth c).pendingSince = (s.berth c).pendingSince ∧
    ((closeFailed b s).berth c).agreement = (s.berth c).agreement ∧
    ((closeFailed b s).berth c).causes = (s.berth c).causes ∧
    ((closeFailed b s).berth c).status = (s.berth c).status ∧
    ((closeFailed b s).berth c).syncHold = (s.berth c).syncHold ∧
    ((closeFailed b s).berth c).separationCause = (s.berth c).separationCause ∧
    ((closeFailed b s).berth c).qualification = (s.berth c).qualification ∧
    ((closeFailed b s).sec c).deferrals = (s.sec c).deferrals ∧
    ((closeFailed b s).sec c).schedule = (s.sec c).schedule ∧ (closeFailed b s).unit c = s.unit c ∧
    (closeFailed b s).reference c = s.reference c ∧ (closeFailed b s).sync c = s.sync c := by
  simp [closeFailed, ite_views, ite_record, ite_section, ite_links, h]

/-- What `syncTimerExpired` leaves alone. -/
@[simp] theorem syncTimerExpired_frame (b : Berth) (s : State) :
    (syncTimerExpired b s).now = s.now ∧ (syncTimerExpired b s).resetHeld = s.resetHeld ∧
    (syncTimerExpired b s).units = s.units ∧ (syncTimerExpired b s).pool = s.pool ∧
    (syncTimerExpired b s).capture = s.capture ∧ (syncTimerExpired b s).port = s.port ∧
    (syncTimerExpired b s).ramps = s.ramps ∧ (syncTimerExpired b s).budget = s.budget ∧
    (syncTimerExpired b s).sections = s.sections ∧ (syncTimerExpired b s).meters = s.meters ∧
    (syncTimerExpired b s).tariff = s.tariff ∧ (syncTimerExpired b s).records = s.records ∧
    (syncTimerExpired b s).settings = s.settings ∧ (syncTimerExpired b s).freeCount = s.freeCount ∧
    (syncTimerExpired b s).pending = s.pending ∧
    (∀ c, ((syncTimerExpired b s).berth c).inService = (s.berth c).inService) ∧
    (∀ c, ((syncTimerExpired b s).berth c).holder = (s.berth c).holder) ∧
    (∀ c, ((syncTimerExpired b s).berth c).pendingSince = (s.berth c).pendingSince) ∧
    (∀ c, ((syncTimerExpired b s).berth c).agreement = (s.berth c).agreement) ∧
    (∀ c, ((syncTimerExpired b s).berth c).causes = (s.berth c).causes) ∧
    (∀ c, ((syncTimerExpired b s).berth c).status = (s.berth c).status) ∧
    (∀ c, ((syncTimerExpired b s).berth c).moduleCount = (s.berth c).moduleCount) ∧
    (∀ c, ((syncTimerExpired b s).berth c).summaryReserved = (s.berth c).summaryReserved) ∧
    (∀ c, ((syncTimerExpired b s).berth c).linkLost = (s.berth c).linkLost) ∧
    (∀ c, ((syncTimerExpired b s).berth c).separationCause = (s.berth c).separationCause) ∧
    (∀ c, (syncTimerExpired b s).sec c = s.sec c) ∧ (∀ c, (syncTimerExpired b s).unit c = s.unit c) ∧
    (∀ c, (syncTimerExpired b s).ramp c = s.ramp c) ∧ (∀ c, (syncTimerExpired b s).meter c = s.meter c) ∧
    (∀ k, ((syncTimerExpired b s).links.get k).up = (s.links.get k).up) := by
  simp [syncTimerExpired, ite_views, ite_record, ite_section, ite_links]

/-- What `syncTimerExpired` leaves alone of another berth. -/
@[simp] theorem syncTimerExpired_others (b : Berth) (c : Berth) (h : c ≠ b) (s : State) :
    ((syncTimerExpired b s).berth c).stage = (s.berth c).stage ∧
    ((syncTimerExpired b s).berth c).syncHold = (s.berth c).syncHold ∧
    ((syncTimerExpired b s).berth c).qualification = (s.berth c).qualification ∧
    (syncTimerExpired b s).reference c = s.reference c ∧ (syncTimerExpired b s).sync c = s.sync c := by
  simp [syncTimerExpired, ite_views, ite_record, ite_section, ite_links, h]

/-- What `deadBefore` leaves alone. -/
@[simp] theorem deadBefore_frame (d : BusSide) (b : Berth) (m : Nat) (s : State) :
    (deadBefore d b m s).now = s.now ∧ (deadBefore d b m s).resetHeld = s.resetHeld ∧
    (deadBefore d b m s).berths = s.berths ∧ (deadBefore d b m s).units = s.units ∧
    (deadBefore d b m s).pool = s.pool ∧ (deadBefore d b m s).references = s.references ∧
    (deadBefore d b m s).port = s.port ∧ (deadBefore d b m s).ramps = s.ramps ∧
    (deadBefore d b m s).budget = s.budget ∧ (deadBefore d b m s).sections = s.sections ∧
    (deadBefore d b m s).meters = s.meters ∧ (deadBefore d b m s).tariff = s.tariff ∧
    (deadBefore d b m s).records = s.records ∧ (deadBefore d b m s).settings = s.settings ∧
    (deadBefore d b m s).freeCount = s.freeCount ∧ (deadBefore d b m s).pending = s.pending ∧
    (∀ c, (deadBefore d b m s).berth c = s.berth c) ∧ (∀ c, (deadBefore d b m s).sec c = s.sec c) ∧
    (∀ c, (deadBefore d b m s).unit c = s.unit c) ∧ (∀ c, (deadBefore d b m s).reference c = s.reference c) ∧
    (∀ c, (deadBefore d b m s).ramp c = s.ramp c) ∧ (∀ c, (deadBefore d b m s).meter c = s.meter c) ∧
    (∀ k, ((deadBefore d b m s).links.get k).up = (s.links.get k).up) := by
  unfold deadBefore; (try dsimp only); (repeat' split) <;> simp

/-- What `deadBefore` leaves alone of another berth. -/
@[simp] theorem deadBefore_others (d : BusSide) (b : Berth) (c : Berth) (h : c ≠ b) (m : Nat) (s : State) :
    (deadBefore d b m s).sync c = s.sync c := by
  unfold deadBefore; (try dsimp only); (repeat' split) <;> simp [h]

/-- An input whose dead timer is stopped, or expires no earlier than a moment, is as it was at that moment. -/
theorem deadBefore_of_in_time (d : BusSide) (b : Berth) (m : Nat) (s : State)
    (h : ∀ e, (s.input d b).deadTimer = some e → m ≤ e) : deadBefore d b m s = s := by
  unfold deadBefore
  split
  · rfl
  · rename_i e he
    rw [if_neg (Nat.not_lt.mpr (h e he))]

/-- An input whose dead timer expired before a moment is DEAD at that moment. -/
theorem deadBefore_of_late (d : BusSide) (b : Berth) (m e : Nat) (s : State)
    (h : (s.input d b).deadTimer = some e) (l : e < m) : deadBefore d b m s = declareDead d b s := by
  unfold deadBefore
  rw [h]
  simp [l]

/-- What `takeEdge` leaves alone. -/
@[simp] theorem takeEdge_frame (d : BusSide) (b : Berth) (t : TimeStamp) (s : State) :
    (takeEdge d b t s).now = s.now ∧ (takeEdge d b t s).resetHeld = s.resetHeld ∧
    (takeEdge d b t s).units = s.units ∧ (takeEdge d b t s).pool = s.pool ∧ (takeEdge d b t s).port = s.port ∧
    (takeEdge d b t s).ramps = s.ramps ∧ (takeEdge d b t s).budget = s.budget ∧
    (takeEdge d b t s).sections = s.sections ∧ (takeEdge d b t s).meters = s.meters ∧
    (takeEdge d b t s).tariff = s.tariff ∧ (takeEdge d b t s).settings = s.settings ∧
    (takeEdge d b t s).freeCount = s.freeCount ∧ (takeEdge d b t s).pending = s.pending ∧
    (∀ c, ((takeEdge d b t s).berth c).inService = (s.berth c).inService) ∧
    (∀ c, ((takeEdge d b t s).berth c).holder = (s.berth c).holder) ∧
    (∀ c, ((takeEdge d b t s).berth c).pendingSince = (s.berth c).pendingSince) ∧
    (∀ c, ((takeEdge d b t s).berth c).agreement = (s.berth c).agreement) ∧
    (∀ c, ((takeEdge d b t s).berth c).causes = (s.berth c).causes) ∧
    (∀ c, ((takeEdge d b t s).berth c).status = (s.berth c).status) ∧
    (∀ c, ((takeEdge d b t s).berth c).moduleCount = (s.berth c).moduleCount) ∧
    (∀ c, ((takeEdge d b t s).berth c).linkLost = (s.berth c).linkLost) ∧
    (∀ c, ((takeEdge d b t s).berth c).separationCause = (s.berth c).separationCause) ∧
    (∀ c, ((takeEdge d b t s).berth c).qualification = (s.berth c).qualification) ∧
    (∀ c, (takeEdge d b t s).sec c = s.sec c) ∧ (∀ c, (takeEdge d b t s).unit c = s.unit c) ∧
    (∀ c, (takeEdge d b t s).ramp c = s.ramp c) ∧ (∀ c, (takeEdge d b t s).meter c = s.meter c) ∧
    (∀ k, ((takeEdge d b t s).links.get k).up = (s.links.get k).up) := by
  unfold takeEdge; dsimp only; (repeat' split) <;> simp

/-- What `overloadFrame` leaves alone. -/
@[simp] theorem overloadFrame_frame (b : Berth) (p : BitVec 32) (s : State) :
    (overloadFrame b p s).now = s.now ∧ (overloadFrame b p s).resetHeld = s.resetHeld ∧
    (overloadFrame b p s).berths = s.berths ∧ (overloadFrame b p s).units = s.units ∧
    (overloadFrame b p s).pool = s.pool ∧ (overloadFrame b p s).references = s.references ∧
    (overloadFrame b p s).capture = s.capture ∧ (overloadFrame b p s).port = s.port ∧
    (overloadFrame b p s).syncs = s.syncs ∧ (overloadFrame b p s).ramps = s.ramps ∧
    (overloadFrame b p s).budget = s.budget ∧ (overloadFrame b p s).meters = s.meters ∧
    (overloadFrame b p s).tariff = s.tariff ∧ (overloadFrame b p s).records = s.records ∧
    (overloadFrame b p s).settings = s.settings ∧ (overloadFrame b p s).freeCount = s.freeCount ∧
    (overloadFrame b p s).pending = s.pending ∧ (∀ c, (overloadFrame b p s).berth c = s.berth c) ∧
    (∀ c, ((overloadFrame b p s).sec c).emergencyStop = (s.sec c).emergencyStop) ∧
    (∀ c, ((overloadFrame b p s).sec c).plugPilot = (s.sec c).plugPilot) ∧
    (∀ c, ((overloadFrame b p s).sec c).outletAux = (s.sec c).outletAux) ∧
    (∀ c, ((overloadFrame b p s).sec c).couplerAux = (s.sec c).couplerAux) ∧
    (∀ c, ((overloadFrame b p s).sec c).earthResult = (s.sec c).earthResult) ∧
    (∀ c, ((overloadFrame b p s).sec c).deferrals = (s.sec c).deferrals) ∧
    (∀ c, ((overloadFrame b p s).sec c).schedule = (s.sec c).schedule) ∧
    (∀ c, ((overloadFrame b p s).sec c).outletCommand = (s.sec c).outletCommand) ∧
    (∀ c, (overloadFrame b p s).unit c = s.unit c) ∧ (∀ c, (overloadFrame b p s).reference c = s.reference c) ∧
    (∀ c, (overloadFrame b p s).sync c = s.sync c) ∧ (∀ c, (overloadFrame b p s).ramp c = s.ramp c) ∧
    (∀ c, (overloadFrame b p s).meter c = s.meter c) ∧
    (∀ k, ((overloadFrame b p s).links.get k).up = (s.links.get k).up) := by
  simp [overloadFrame, ite_views, ite_record, ite_section, ite_links]

/-- What `qualifyFrame` leaves alone. -/
@[simp] theorem qualifyFrame_frame (b : Berth) (v : BitVec 16) (s : State) :
    (qualifyFrame b v s).now = s.now ∧ (qualifyFrame b v s).resetHeld = s.resetHeld ∧
    (qualifyFrame b v s).units = s.units ∧ (qualifyFrame b v s).pool = s.pool ∧
    (qualifyFrame b v s).capture = s.capture ∧ (qualifyFrame b v s).port = s.port ∧
    (qualifyFrame b v s).ramps = s.ramps ∧ (qualifyFrame b v s).budget = s.budget ∧
    (qualifyFrame b v s).sections = s.sections ∧ (qualifyFrame b v s).meters = s.meters ∧
    (qualifyFrame b v s).tariff = s.tariff ∧ (qualifyFrame b v s).records = s.records ∧
    (qualifyFrame b v s).settings = s.settings ∧ (qualifyFrame b v s).freeCount = s.freeCount ∧
    (qualifyFrame b v s).pending = s.pending ∧
    (∀ c, ((qualifyFrame b v s).berth c).inService = (s.berth c).inService) ∧
    (∀ c, ((qualifyFrame b v s).berth c).holder = (s.berth c).holder) ∧
    (∀ c, ((qualifyFrame b v s).berth c).pendingSince = (s.berth c).pendingSince) ∧
    (∀ c, ((qualifyFrame b v s).berth c).agreement = (s.berth c).agreement) ∧
    (∀ c, ((qualifyFrame b v s).berth c).causes = (s.berth c).causes) ∧
    (∀ c, ((qualifyFrame b v s).berth c).status = (s.berth c).status) ∧
    (∀ c, ((qualifyFrame b v s).berth c).moduleCount = (s.berth c).moduleCount) ∧
    (∀ c, ((qualifyFrame b v s).berth c).summaryReserved = (s.berth c).summaryReserved) ∧
    (∀ c, ((qualifyFrame b v s).berth c).linkLost = (s.berth c).linkLost) ∧
    (∀ c, ((qualifyFrame b v s).berth c).separationCause = (s.berth c).separationCause) ∧
    (∀ c, (qualifyFrame b v s).sec c = s.sec c) ∧ (∀ c, (qualifyFrame b v s).unit c = s.unit c) ∧
    (∀ c, (qualifyFrame b v s).ramp c = s.ramp c) ∧ (∀ c, (qualifyFrame b v s).meter c = s.meter c) ∧
    (∀ k, ((qualifyFrame b v s).links.get k).up = (s.links.get k).up) := by
  simp [qualifyFrame, ite_views, ite_record, ite_section, ite_links]

/-- What `qualifyFrame` leaves alone of another berth. -/
@[simp] theorem qualifyFrame_others (b : Berth) (v : BitVec 16) (c : Berth) (h : c ≠ b) (s : State) :
    ((qualifyFrame b v s).berth c).stage = (s.berth c).stage ∧
    ((qualifyFrame b v s).berth c).syncHold = (s.berth c).syncHold ∧
    ((qualifyFrame b v s).berth c).qualification = (s.berth c).qualification ∧
    (qualifyFrame b v s).reference c = s.reference c ∧ (qualifyFrame b v s).sync c = s.sync c := by
  simp [qualifyFrame, ite_views, ite_record, ite_section, ite_links, h]

/-- What `rampFrame` leaves alone. -/
@[simp] theorem rampFrame_frame (b : Berth) (p : BitVec 32) (s : State) :
    (rampFrame b p s).now = s.now ∧ (rampFrame b p s).resetHeld = s.resetHeld ∧
    (rampFrame b p s).port = s.port ∧ (rampFrame b p s).tariff = s.tariff ∧
    (rampFrame b p s).settings = s.settings ∧ (rampFrame b p s).freeCount = s.freeCount ∧
    (rampFrame b p s).pending = s.pending ∧
    (∀ c, ((rampFrame b p s).berth c).inService = (s.berth c).inService) ∧
    (∀ c, ((rampFrame b p s).berth c).causes = (s.berth c).causes) ∧
    (∀ c, ((rampFrame b p s).berth c).linkLost = (s.berth c).linkLost) ∧
    (∀ c, ((rampFrame b p s).berth c).qualification = (s.berth c).qualification) ∧
    (∀ c, ((rampFrame b p s).sec c).emergencyStop = (s.sec c).emergencyStop) ∧
    (∀ c, ((rampFrame b p s).sec c).plugPilot = (s.sec c).plugPilot) ∧
    (∀ c, ((rampFrame b p s).sec c).outletAux = (s.sec c).outletAux) ∧
    (∀ c, ((rampFrame b p s).sec c).couplerAux = (s.sec c).couplerAux) ∧
    (∀ c, ((rampFrame b p s).sec c).earthResult = (s.sec c).earthResult) ∧
    (∀ k, ((rampFrame b p s).links.get k).up = (s.links.get k).up) := by
  unfold rampFrame; (try dsimp only); (repeat' split) <;> simp

/-- What `rampFrame` leaves alone of another berth. -/
@[simp] theorem rampFrame_others (b : Berth) (p : BitVec 32) (c : Berth) (h : c ≠ b) (s : State) :
    ((rampFrame b p s).berth c).stage = (s.berth c).stage ∧
    ((rampFrame b p s).berth c).holder = (s.berth c).holder ∧
    ((rampFrame b p s).berth c).pendingSince = (s.berth c).pendingSince ∧
    ((rampFrame b p s).berth c).agreement = (s.berth c).agreement ∧
    ((rampFrame b p s).berth c).status = (s.berth c).status ∧
    ((rampFrame b p s).berth c).syncHold = (s.berth c).syncHold ∧
    ((rampFrame b p s).berth c).separationCause = (s.berth c).separationCause ∧
    ((rampFrame b p s).sec c).deferrals = (s.sec c).deferrals ∧
    ((rampFrame b p s).sec c).schedule = (s.sec c).schedule ∧ (rampFrame b p s).unit c = s.unit c ∧
    (rampFrame b p s).reference c = s.reference c ∧ (rampFrame b p s).sync c = s.sync c := by
  unfold rampFrame; (try dsimp only); (repeat' split) <;> simp [h]

/-- What `deliverFrame` leaves alone. -/
@[simp] theorem deliverFrame_frame (vs : PerBerth BusValues) (b : Berth) (s : State) :
    (deliverFrame vs b s).now = s.now ∧ (deliverFrame vs b s).resetHeld = s.resetHeld ∧
    (deliverFrame vs b s).port = s.port ∧ (deliverFrame vs b s).tariff = s.tariff ∧
    (deliverFrame vs b s).settings = s.settings ∧ (deliverFrame vs b s).pending = s.pending ∧
    (∀ c, ((deliverFrame vs b s).berth c).inService = (s.berth c).inService) ∧
    (∀ c, ((deliverFrame vs b s).berth c).causes = (s.berth c).causes) ∧
    (∀ c, ((deliverFrame vs b s).berth c).linkLost = (s.berth c).linkLost) ∧
    (∀ c, ((deliverFrame vs b s).sec c).emergencyStop = (s.sec c).emergencyStop) ∧
    (∀ c, ((deliverFrame vs b s).sec c).plugPilot = (s.sec c).plugPilot) ∧
    (∀ c, ((deliverFrame vs b s).sec c).outletAux = (s.sec c).outletAux) ∧
    (∀ c, ((deliverFrame vs b s).sec c).couplerAux = (s.sec c).couplerAux) ∧
    (∀ c, ((deliverFrame vs b s).sec c).earthResult = (s.sec c).earthResult) ∧
    (∀ k, ((deliverFrame vs b s).links.get k).up = (s.links.get k).up) := by
  simp [deliverFrame]

/-- What `deliverFrame` leaves alone of another berth. -/
@[simp] theorem deliverFrame_others (vs : PerBerth BusValues) (b : Berth) (c : Berth) (h : c ≠ b) (s : State) :
    ((deliverFrame vs b s).berth c).stage = (s.berth c).stage ∧
    ((deliverFrame vs b s).berth c).holder = (s.berth c).holder ∧
    ((deliverFrame vs b s).berth c).pendingSince = (s.berth c).pendingSince ∧
    ((deliverFrame vs b s).berth c).agreement = (s.berth c).agreement ∧
    ((deliverFrame vs b s).berth c).status = (s.berth c).status ∧
    ((deliverFrame vs b s).berth c).syncHold = (s.berth c).syncHold ∧
    ((deliverFrame vs b s).berth c).separationCause = (s.berth c).separationCause ∧
    ((deliverFrame vs b s).berth c).qualification = (s.berth c).qualification ∧
    ((deliverFrame vs b s).sec c).deferrals = (s.sec c).deferrals ∧
    ((deliverFrame vs b s).sec c).schedule = (s.sec c).schedule ∧ (deliverFrame vs b s).unit c = s.unit c ∧
    (deliverFrame vs b s).reference c = s.reference c ∧ (deliverFrame vs b s).sync c = s.sync c := by
  simp [deliverFrame, h]

/-- What `deliverMissing` leaves alone. -/
@[simp] theorem deliverMissing_frame (b : Berth) (s : State) :
    (deliverMissing b s).now = s.now ∧ (deliverMissing b s).resetHeld = s.resetHeld ∧
    (deliverMissing b s).links = s.links ∧ (deliverMissing b s).units = s.units ∧
    (deliverMissing b s).pool = s.pool ∧ (deliverMissing b s).references = s.references ∧
    (deliverMissing b s).capture = s.capture ∧ (deliverMissing b s).port = s.port ∧
    (deliverMissing b s).syncs = s.syncs ∧ (deliverMissing b s).ramps = s.ramps ∧
    (deliverMissing b s).budget = s.budget ∧ (deliverMissing b s).sections = s.sections ∧
    (deliverMissing b s).tariff = s.tariff ∧ (deliverMissing b s).records = s.records ∧
    (deliverMissing b s).settings = s.settings ∧ (deliverMissing b s).sent = s.sent ∧
    (deliverMissing b s).pending = s.pending ∧
    (∀ c, ((deliverMissing b s).berth c).inService = (s.berth c).inService) ∧
    (∀ c, ((deliverMissing b s).berth c).stage = (s.berth c).stage) ∧
    (∀ c, ((deliverMissing b s).berth c).holder = (s.berth c).holder) ∧
    (∀ c, ((deliverMissing b s).berth c).pendingSince = (s.berth c).pendingSince) ∧
    (∀ c, ((deliverMissing b s).berth c).agreement = (s.berth c).agreement) ∧
    (∀ c, ((deliverMissing b s).berth c).causes = (s.berth c).causes) ∧
    (∀ c, ((deliverMissing b s).berth c).status = (s.berth c).status) ∧
    (∀ c, ((deliverMissing b s).berth c).moduleCount = (s.berth c).moduleCount) ∧
    (∀ c, ((deliverMissing b s).berth c).summaryReserved = (s.berth c).summaryReserved) ∧
    (∀ c, ((deliverMissing b s).berth c).linkLost = (s.berth c).linkLost) ∧
    (∀ c, ((deliverMissing b s).berth c).syncHold = (s.berth c).syncHold) ∧
    (∀ c, ((deliverMissing b s).berth c).separationCause = (s.berth c).separationCause) ∧
    (∀ c, ((deliverMissing b s).berth c).stageTimer = (s.berth c).stageTimer) ∧
    (∀ c, (deliverMissing b s).sec c = s.sec c) ∧ (∀ c, (deliverMissing b s).unit c = s.unit c) ∧
    (∀ c, (deliverMissing b s).reference c = s.reference c) ∧ (∀ c, (deliverMissing b s).sync c = s.sync c) ∧
    (∀ c, (deliverMissing b s).ramp c = s.ramp c) := by
  simp [deliverMissing, ite_views, ite_record, ite_section, ite_links]

/-- What `deliverMissing` leaves alone of another berth. -/
@[simp] theorem deliverMissing_others (b : Berth) (c : Berth) (h : c ≠ b) (s : State) :
    ((deliverMissing b s).berth c).qualification = (s.berth c).qualification := by
  simp [deliverMissing, ite_views, ite_record, ite_section, ite_links, h]

/-- What `noteChange` leaves alone. -/
@[simp] theorem noteChange_frame (b : Berth) (l : InputLine) (s : State) :
    (noteChange b l s).now = s.now ∧ (noteChange b l s).resetHeld = s.resetHeld ∧
    (noteChange b l s).berths = s.berths ∧ (noteChange b l s).units = s.units ∧
    (noteChange b l s).pool = s.pool ∧ (noteChange b l s).references = s.references ∧
    (noteChange b l s).capture = s.capture ∧ (noteChange b l s).port = s.port ∧
    (noteChange b l s).syncs = s.syncs ∧ (noteChange b l s).ramps = s.ramps ∧
    (noteChange b l s).budget = s.budget ∧ (noteChange b l s).meters = s.meters ∧
    (noteChange b l s).tariff = s.tariff ∧ (noteChange b l s).records = s.records ∧
    (noteChange b l s).settings = s.settings ∧ (noteChange b l s).freeCount = s.freeCount ∧
    (noteChange b l s).pending = s.pending ∧ (∀ c, (noteChange b l s).berth c = s.berth c) ∧
    (∀ c, ((noteChange b l s).sec c).emergencyStop = (s.sec c).emergencyStop) ∧
    (∀ c, ((noteChange b l s).sec c).plugPilot = (s.sec c).plugPilot) ∧
    (∀ c, ((noteChange b l s).sec c).outletAux = (s.sec c).outletAux) ∧
    (∀ c, ((noteChange b l s).sec c).couplerAux = (s.sec c).couplerAux) ∧
    (∀ c, ((noteChange b l s).sec c).earthResult = (s.sec c).earthResult) ∧
    (∀ c, ((noteChange b l s).sec c).deferrals = (s.sec c).deferrals) ∧
    (∀ c, ((noteChange b l s).sec c).schedule = (s.sec c).schedule) ∧
    (∀ c, ((noteChange b l s).sec c).outletCommand = (s.sec c).outletCommand) ∧
    (∀ c, (noteChange b l s).unit c = s.unit c) ∧ (∀ c, (noteChange b l s).reference c = s.reference c) ∧
    (∀ c, (noteChange b l s).sync c = s.sync c) ∧ (∀ c, (noteChange b l s).ramp c = s.ramp c) ∧
    (∀ c, (noteChange b l s).meter c = s.meter c) ∧
    (∀ k, ((noteChange b l s).links.get k).up = (s.links.get k).up) := by
  simp [noteChange, ite_views, ite_record, ite_section, ite_links]

/-- What `emergencyStopChanged` leaves alone. -/
@[simp] theorem emergencyStopChanged_frame (b : Berth) (x : Contact) (s : State) :
    (emergencyStopChanged b x s).now = s.now ∧ (emergencyStopChanged b x s).resetHeld = s.resetHeld ∧
    (emergencyStopChanged b x s).capture = s.capture ∧ (emergencyStopChanged b x s).port = s.port ∧
    (emergencyStopChanged b x s).tariff = s.tariff ∧ (emergencyStopChanged b x s).settings = s.settings ∧
    (emergencyStopChanged b x s).freeCount = s.freeCount ∧ (emergencyStopChanged b x s).pending = s.pending ∧
    (∀ c, ((emergencyStopChanged b x s).berth c).inService = (s.berth c).inService) ∧
    (∀ c, ((emergencyStopChanged b x s).berth c).agreement = (s.berth c).agreement) ∧
    (∀ c, ((emergencyStopChanged b x s).berth c).status = (s.berth c).status) ∧
    (∀ c, ((emergencyStopChanged b x s).berth c).linkLost = (s.berth c).linkLost) ∧
    (∀ c, ((emergencyStopChanged b x s).berth c).separationCause = (s.berth c).separationCause) ∧
    (∀ c, ((emergencyStopChanged b x s).berth c).qualification = (s.berth c).qualification) ∧
    (∀ c, ((emergencyStopChanged b x s).sec c).emergencyStop = (s.sec c).emergencyStop) ∧
    (∀ c, ((emergencyStopChanged b x s).sec c).plugPilot = (s.sec c).plugPilot) ∧
    (∀ c, ((emergencyStopChanged b x s).sec c).outletAux = (s.sec c).outletAux) ∧
    (∀ c, ((emergencyStopChanged b x s).sec c).couplerAux = (s.sec c).couplerAux) ∧
    (∀ c, ((emergencyStopChanged b x s).sec c).earthResult = (s.sec c).earthResult) ∧
    (∀ k, ((emergencyStopChanged b x s).links.get k).up = (s.links.get k).up) := by
  unfold emergencyStopChanged; (try dsimp only); (repeat' split) <;> simp

/-- What `emergencyStopChanged` leaves alone of another berth. -/
@[simp] theorem emergencyStopChanged_others (b : Berth) (x : Contact) (c : Berth) (h : c ≠ b) (s : State) :
    ((emergencyStopChanged b x s).berth c).stage = (s.berth c).stage ∧
    ((emergencyStopChanged b x s).berth c).holder = (s.berth c).holder ∧
    ((emergencyStopChanged b x s).berth c).pendingSince = (s.berth c).pendingSince ∧
    ((emergencyStopChanged b x s).berth c).causes = (s.berth c).causes ∧
    ((emergencyStopChanged b x s).berth c).syncHold = (s.berth c).syncHold ∧
    ((emergencyStopChanged b x s).sec c).deferrals = (s.sec c).deferrals ∧
    ((emergencyStopChanged b x s).sec c).schedule = (s.sec c).schedule ∧
    (emergencyStopChanged b x s).unit c = s.unit c ∧ (emergencyStopChanged b x s).reference c = s.reference c ∧
    (emergencyStopChanged b x s).sync c = s.sync c := by
  unfold emergencyStopChanged; (try dsimp only); (repeat' split) <;> simp [h]

/-- What `plugPilotChanged` leaves alone. -/
@[simp] theorem plugPilotChanged_frame (b : Berth) (x : Contact) (s : State) :
    (plugPilotChanged b x s).now = s.now ∧ (plugPilotChanged b x s).resetHeld = s.resetHeld ∧
    (plugPilotChanged b x s).port = s.port ∧ (plugPilotChanged b x s).tariff = s.tariff ∧
    (plugPilotChanged b x s).settings = s.settings ∧ (plugPilotChanged b x s).freeCount = s.freeCount ∧
    (plugPilotChanged b x s).pending = s.pending ∧
    (∀ c, ((plugPilotChanged b x s).berth c).inService = (s.berth c).inService) ∧
    (∀ c, ((plugPilotChanged b x s).berth c).linkLost = (s.berth c).linkLost) ∧
    (∀ c, ((plugPilotChanged b x s).sec c).emergencyStop = (s.sec c).emergencyStop) ∧
    (∀ c, ((plugPilotChanged b x s).sec c).plugPilot = (s.sec c).plugPilot) ∧
    (∀ c, ((plugPilotChanged b x s).sec c).outletAux = (s.sec c).outletAux) ∧
    (∀ c, ((plugPilotChanged b x s).sec c).couplerAux = (s.sec c).couplerAux) ∧
    (∀ c, ((plugPilotChanged b x s).sec c).earthResult = (s.sec c).earthResult) ∧
    (∀ k, ((plugPilotChanged b x s).links.get k).up = (s.links.get k).up) := by
  unfold plugPilotChanged; (try dsimp only); (repeat' split) <;> simp

/-- What `plugPilotChanged` leaves alone of another berth. -/
@[simp] theorem plugPilotChanged_others (b : Berth) (x : Contact) (c : Berth) (h : c ≠ b) (s : State) :
    ((plugPilotChanged b x s).berth c).stage = (s.berth c).stage ∧
    ((plugPilotChanged b x s).berth c).holder = (s.berth c).holder ∧
    ((plugPilotChanged b x s).berth c).pendingSince = (s.berth c).pendingSince ∧
    ((plugPilotChanged b x s).berth c).agreement = (s.berth c).agreement ∧
    ((plugPilotChanged b x s).berth c).causes = (s.berth c).causes ∧
    ((plugPilotChanged b x s).berth c).status = (s.berth c).status ∧
    ((plugPilotChanged b x s).berth c).syncHold = (s.berth c).syncHold ∧
    ((plugPilotChanged b x s).berth c).separationCause = (s.berth c).separationCause ∧
    ((plugPilotChanged b x s).berth c).qualification = (s.berth c).qualification ∧
    ((plugPilotChanged b x s).sec c).deferrals = (s.sec c).deferrals ∧
    ((plugPilotChanged b x s).sec c).schedule = (s.sec c).schedule ∧
    (plugPilotChanged b x s).unit c = s.unit c ∧ (plugPilotChanged b x s).reference c = s.reference c ∧
    (plugPilotChanged b x s).sync c = s.sync c := by
  unfold plugPilotChanged; (try dsimp only); (repeat' split) <;> simp [h]

/-- What `outletClosed` leaves alone. -/
@[simp] theorem outletClosed_frame (b : Berth) (s : State) :
    (outletClosed b s).now = s.now ∧ (outletClosed b s).resetHeld = s.resetHeld ∧
    (outletClosed b s).units = s.units ∧ (outletClosed b s).pool = s.pool ∧
    (outletClosed b s).capture = s.capture ∧ (outletClosed b s).port = s.port ∧
    (outletClosed b s).ramps = s.ramps ∧ (outletClosed b s).budget = s.budget ∧
    (outletClosed b s).meters = s.meters ∧ (outletClosed b s).tariff = s.tariff ∧
    (outletClosed b s).records = s.records ∧ (outletClosed b s).settings = s.settings ∧
    (outletClosed b s).freeCount = s.freeCount ∧ (outletClosed b s).pending = s.pending ∧
    (∀ c, ((outletClosed b s).berth c).inService = (s.berth c).inService) ∧
    (∀ c, ((outletClosed b s).berth c).holder = (s.berth c).holder) ∧
    (∀ c, ((outletClosed b s).berth c).pendingSince = (s.berth c).pendingSince) ∧
    (∀ c, ((outletClosed b s).berth c).agreement = (s.berth c).agreement) ∧
    (∀ c, ((outletClosed b s).berth c).causes = (s.berth c).causes) ∧
    (∀ c, ((outletClosed b s).berth c).status = (s.berth c).status) ∧
    (∀ c, ((outletClosed b s).berth c).moduleCount = (s.berth c).moduleCount) ∧
    (∀ c, ((outletClosed b s).berth c).summaryReserved = (s.berth c).summaryReserved) ∧
    (∀ c, ((outletClosed b s).berth c).linkLost = (s.berth c).linkLost) ∧
    (∀ c, ((outletClosed b s).berth c).syncHold = (s.berth c).syncHold) ∧
    (∀ c, ((outletClosed b s).berth c).separationCause = (s.berth c).separationCause) ∧
    (∀ c, ((outletClosed b s).sec c).emergencyStop = (s.sec c).emergencyStop) ∧
    (∀ c, ((outletClosed b s).sec c).plugPilot = (s.sec c).plugPilot) ∧
    (∀ c, ((outletClosed b s).sec c).outletAux = (s.sec c).outletAux) ∧
    (∀ c, ((outletClosed b s).sec c).couplerAux = (s.sec c).couplerAux) ∧
    (∀ c, ((outletClosed b s).sec c).earthResult = (s.sec c).earthResult) ∧
    (∀ c, ((outletClosed b s).sec c).outletCommand = (s.sec c).outletCommand) ∧
    (∀ c, (outletClosed b s).unit c = s.unit c) ∧ (∀ c, (outletClosed b s).ramp c = s.ramp c) ∧
    (∀ c, (outletClosed b s).meter c = s.meter c) ∧
    (∀ k, ((outletClosed b s).links.get k).up = (s.links.get k).up) := by
  unfold outletClosed; (try dsimp only); (repeat' split) <;> simp

/-- What `outletClosed` leaves alone of another berth. -/
@[simp] theorem outletClosed_others (b : Berth) (c : Berth) (h : c ≠ b) (s : State) :
    ((outletClosed b s).berth c).stage = (s.berth c).stage ∧
    ((outletClosed b s).berth c).qualification = (s.berth c).qualification ∧
    ((outletClosed b s).sec c).deferrals = (s.sec c).deferrals ∧
    ((outletClosed b s).sec c).schedule = (s.sec c).schedule ∧ (outletClosed b s).reference c = s.reference c ∧
    (outletClosed b s).sync c = s.sync c := by
  unfold outletClosed; (try dsimp only); (repeat' split) <;> simp [h]

/-- What `outletConfirmedOpen` leaves alone. -/
@[simp] theorem outletConfirmedOpen_frame (b : Berth) (s : State) :
    (outletConfirmedOpen b s).now = s.now ∧ (outletConfirmedOpen b s).resetHeld = s.resetHeld ∧
    (outletConfirmedOpen b s).port = s.port ∧ (outletConfirmedOpen b s).tariff = s.tariff ∧
    (outletConfirmedOpen b s).settings = s.settings ∧ (outletConfirmedOpen b s).freeCount = s.freeCount ∧
    (outletConfirmedOpen b s).pending = s.pending ∧
    (∀ c, ((outletConfirmedOpen b s).berth c).inService = (s.berth c).inService) ∧
    (∀ c, ((outletConfirmedOpen b s).berth c).causes = (s.berth c).causes) ∧
    (∀ c, ((outletConfirmedOpen b s).berth c).linkLost = (s.berth c).linkLost) ∧
    (∀ c, ((outletConfirmedOpen b s).berth c).qualification = (s.berth c).qualification) ∧
    (∀ c, ((outletConfirmedOpen b s).sec c).emergencyStop = (s.sec c).emergencyStop) ∧
    (∀ c, ((outletConfirmedOpen b s).sec c).plugPilot = (s.sec c).plugPilot) ∧
    (∀ c, ((outletConfirmedOpen b s).sec c).outletAux = (s.sec c).outletAux) ∧
    (∀ c, ((outletConfirmedOpen b s).sec c).couplerAux = (s.sec c).couplerAux) ∧
    (∀ c, ((outletConfirmedOpen b s).sec c).earthResult = (s.sec c).earthResult) ∧
    (∀ k, ((outletConfirmedOpen b s).links.get k).up = (s.links.get k).up) := by
  unfold outletConfirmedOpen; (try dsimp only); (repeat' split) <;> simp

/-- What `outletConfirmedOpen` leaves alone of another berth. -/
@[simp] theorem outletConfirmedOpen_others (b : Berth) (c : Berth) (h : c ≠ b) (s : State) :
    ((outletConfirmedOpen b s).berth c).stage = (s.berth c).stage ∧
    ((outletConfirmedOpen b s).berth c).holder = (s.berth c).holder ∧
    ((outletConfirmedOpen b s).berth c).pendingSince = (s.berth c).pendingSince ∧
    ((outletConfirmedOpen b s).berth c).agreement = (s.berth c).agreement ∧
    ((outletConfirmedOpen b s).berth c).status = (s.berth c).status ∧
    ((outletConfirmedOpen b s).berth c).syncHold = (s.berth c).syncHold ∧
    ((outletConfirmedOpen b s).berth c).separationCause = (s.berth c).separationCause ∧
    ((outletConfirmedOpen b s).sec c).deferrals = (s.sec c).deferrals ∧
    ((outletConfirmedOpen b s).sec c).schedule = (s.sec c).schedule ∧
    (outletConfirmedOpen b s).unit c = s.unit c ∧ (outletConfirmedOpen b s).reference c = s.reference c ∧
    (outletConfirmedOpen b s).sync c = s.sync c := by
  unfold outletConfirmedOpen; (try dsimp only); (repeat' split) <;> simp [h]

/-- What `outletTripped` leaves alone. -/
@[simp] theorem outletTripped_frame (b : Berth) (s : State) :
    (outletTripped b s).now = s.now ∧ (outletTripped b s).resetHeld = s.resetHeld ∧
    (outletTripped b s).port = s.port ∧ (outletTripped b s).tariff = s.tariff ∧
    (outletTripped b s).settings = s.settings ∧ (outletTripped b s).freeCount = s.freeCount ∧
    (outletTripped b s).pending = s.pending ∧
    (∀ c, ((outletTripped b s).berth c).inService = (s.berth c).inService) ∧
    (∀ c, ((outletTripped b s).berth c).linkLost = (s.berth c).linkLost) ∧
    (∀ c, ((outletTripped b s).sec c).emergencyStop = (s.sec c).emergencyStop) ∧
    (∀ c, ((outletTripped b s).sec c).plugPilot = (s.sec c).plugPilot) ∧
    (∀ c, ((outletTripped b s).sec c).outletAux = (s.sec c).outletAux) ∧
    (∀ c, ((outletTripped b s).sec c).couplerAux = (s.sec c).couplerAux) ∧
    (∀ c, ((outletTripped b s).sec c).earthResult = (s.sec c).earthResult) ∧
    (∀ k, ((outletTripped b s).links.get k).up = (s.links.get k).up) := by
  unfold outletTripped; (try dsimp only); (repeat' split) <;> simp

/-- What `outletTripped` leaves alone of another berth. -/
@[simp] theorem outletTripped_others (b : Berth) (c : Berth) (h : c ≠ b) (s : State) :
    ((outletTripped b s).berth c).stage = (s.berth c).stage ∧
    ((outletTripped b s).berth c).holder = (s.berth c).holder ∧
    ((outletTripped b s).berth c).pendingSince = (s.berth c).pendingSince ∧
    ((outletTripped b s).berth c).agreement = (s.berth c).agreement ∧
    ((outletTripped b s).berth c).causes = (s.berth c).causes ∧
    ((outletTripped b s).berth c).status = (s.berth c).status ∧
    ((outletTripped b s).berth c).syncHold = (s.berth c).syncHold ∧
    ((outletTripped b s).berth c).separationCause = (s.berth c).separationCause ∧
    ((outletTripped b s).berth c).qualification = (s.berth c).qualification ∧
    ((outletTripped b s).sec c).deferrals = (s.sec c).deferrals ∧
    ((outletTripped b s).sec c).schedule = (s.sec c).schedule ∧ (outletTripped b s).unit c = s.unit c ∧
    (outletTripped b s).reference c = s.reference c ∧ (outletTripped b s).sync c = s.sync c := by
  unfold outletTripped; (try dsimp only); (repeat' split) <;> simp [h]

/-- What `outletAuxChanged` leaves alone. -/
@[simp] theorem outletAuxChanged_frame (b : Berth) (x : Contact) (s : State) :
    (outletAuxChanged b x s).now = s.now ∧ (outletAuxChanged b x s).resetHeld = s.resetHeld ∧
    (outletAuxChanged b x s).port = s.port ∧ (outletAuxChanged b x s).tariff = s.tariff ∧
    (outletAuxChanged b x s).settings = s.settings ∧ (outletAuxChanged b x s).freeCount = s.freeCount ∧
    (outletAuxChanged b x s).pending = s.pending ∧
    (∀ c, ((outletAuxChanged b x s).berth c).inService = (s.berth c).inService) ∧
    (∀ c, ((outletAuxChanged b x s).berth c).linkLost = (s.berth c).linkLost) ∧
    (∀ c, ((outletAuxChanged b x s).sec c).emergencyStop = (s.sec c).emergencyStop) ∧
    (∀ c, ((outletAuxChanged b x s).sec c).plugPilot = (s.sec c).plugPilot) ∧
    (∀ c, ((outletAuxChanged b x s).sec c).outletAux = (s.sec c).outletAux) ∧
    (∀ c, ((outletAuxChanged b x s).sec c).couplerAux = (s.sec c).couplerAux) ∧
    (∀ c, ((outletAuxChanged b x s).sec c).earthResult = (s.sec c).earthResult) ∧
    (∀ k, ((outletAuxChanged b x s).links.get k).up = (s.links.get k).up) := by
  unfold outletAuxChanged; (try dsimp only); (repeat' split) <;> simp

/-- What `outletAuxChanged` leaves alone of another berth. -/
@[simp] theorem outletAuxChanged_others (b : Berth) (x : Contact) (c : Berth) (h : c ≠ b) (s : State) :
    ((outletAuxChanged b x s).berth c).stage = (s.berth c).stage ∧
    ((outletAuxChanged b x s).berth c).holder = (s.berth c).holder ∧
    ((outletAuxChanged b x s).berth c).pendingSince = (s.berth c).pendingSince ∧
    ((outletAuxChanged b x s).berth c).agreement = (s.berth c).agreement ∧
    ((outletAuxChanged b x s).berth c).causes = (s.berth c).causes ∧
    ((outletAuxChanged b x s).berth c).status = (s.berth c).status ∧
    ((outletAuxChanged b x s).berth c).syncHold = (s.berth c).syncHold ∧
    ((outletAuxChanged b x s).berth c).separationCause = (s.berth c).separationCause ∧
    ((outletAuxChanged b x s).berth c).qualification = (s.berth c).qualification ∧
    ((outletAuxChanged b x s).sec c).deferrals = (s.sec c).deferrals ∧
    ((outletAuxChanged b x s).sec c).schedule = (s.sec c).schedule ∧
    (outletAuxChanged b x s).unit c = s.unit c ∧ (outletAuxChanged b x s).reference c = s.reference c ∧
    (outletAuxChanged b x s).sync c = s.sync c := by
  unfold outletAuxChanged; (try dsimp only); (repeat' split) <;> simp [h]

/-- What `couplerClosed` leaves alone. -/
@[simp] theorem couplerClosed_frame (b : Berth) (s : State) :
    (couplerClosed b s).now = s.now ∧ (couplerClosed b s).resetHeld = s.resetHeld ∧
    (couplerClosed b s).port = s.port ∧ (couplerClosed b s).tariff = s.tariff ∧
    (couplerClosed b s).settings = s.settings ∧ (couplerClosed b s).freeCount = s.freeCount ∧
    (couplerClosed b s).pending = s.pending ∧
    (∀ c, ((couplerClosed b s).berth c).inService = (s.berth c).inService) ∧
    (∀ c, ((couplerClosed b s).berth c).linkLost = (s.berth c).linkLost) ∧
    (∀ c, ((couplerClosed b s).sec c).emergencyStop = (s.sec c).emergencyStop) ∧
    (∀ c, ((couplerClosed b s).sec c).plugPilot = (s.sec c).plugPilot) ∧
    (∀ c, ((couplerClosed b s).sec c).outletAux = (s.sec c).outletAux) ∧
    (∀ c, ((couplerClosed b s).sec c).couplerAux = (s.sec c).couplerAux) ∧
    (∀ c, ((couplerClosed b s).sec c).earthResult = (s.sec c).earthResult) ∧
    (∀ k, ((couplerClosed b s).links.get k).up = (s.links.get k).up) := by
  unfold couplerClosed; (try dsimp only); (repeat' split) <;> simp

/-- What `couplerClosed` leaves alone of another berth. -/
@[simp] theorem couplerClosed_others (b : Berth) (c : Berth) (h : c ≠ b) (s : State) :
    ((couplerClosed b s).berth c).stage = (s.berth c).stage ∧
    ((couplerClosed b s).berth c).holder = (s.berth c).holder ∧
    ((couplerClosed b s).berth c).pendingSince = (s.berth c).pendingSince ∧
    ((couplerClosed b s).berth c).agreement = (s.berth c).agreement ∧
    ((couplerClosed b s).berth c).causes = (s.berth c).causes ∧
    ((couplerClosed b s).berth c).status = (s.berth c).status ∧
    ((couplerClosed b s).berth c).syncHold = (s.berth c).syncHold ∧
    ((couplerClosed b s).berth c).separationCause = (s.berth c).separationCause ∧
    ((couplerClosed b s).berth c).qualification = (s.berth c).qualification ∧
    ((couplerClosed b s).sec c).deferrals = (s.sec c).deferrals ∧
    ((couplerClosed b s).sec c).schedule = (s.sec c).schedule ∧ (couplerClosed b s).unit c = s.unit c ∧
    (couplerClosed b s).reference c = s.reference c ∧ (couplerClosed b s).sync c = s.sync c := by
  unfold couplerClosed; (try dsimp only); (repeat' split) <;> simp [h]

/-- What `couplerOpened` leaves alone. -/
@[simp] theorem couplerOpened_frame (b : Berth) (s : State) :
    (couplerOpened b s).now = s.now ∧ (couplerOpened b s).resetHeld = s.resetHeld ∧
    (couplerOpened b s).port = s.port ∧ (couplerOpened b s).tariff = s.tariff ∧
    (couplerOpened b s).settings = s.settings ∧ (couplerOpened b s).freeCount = s.freeCount ∧
    (couplerOpened b s).pending = s.pending ∧
    (∀ c, ((couplerOpened b s).berth c).inService = (s.berth c).inService) ∧
    (∀ c, ((couplerOpened b s).berth c).linkLost = (s.berth c).linkLost) ∧
    (∀ c, ((couplerOpened b s).sec c).emergencyStop = (s.sec c).emergencyStop) ∧
    (∀ c, ((couplerOpened b s).sec c).plugPilot = (s.sec c).plugPilot) ∧
    (∀ c, ((couplerOpened b s).sec c).outletAux = (s.sec c).outletAux) ∧
    (∀ c, ((couplerOpened b s).sec c).couplerAux = (s.sec c).couplerAux) ∧
    (∀ c, ((couplerOpened b s).sec c).earthResult = (s.sec c).earthResult) ∧
    (∀ k, ((couplerOpened b s).links.get k).up = (s.links.get k).up) := by
  unfold couplerOpened; (try dsimp only); (repeat' split) <;> simp

/-- What `couplerOpened` leaves alone of another berth. -/
@[simp] theorem couplerOpened_others (b : Berth) (c : Berth) (h : c ≠ b) (s : State) :
    ((couplerOpened b s).berth c).stage = (s.berth c).stage ∧
    ((couplerOpened b s).berth c).holder = (s.berth c).holder ∧
    ((couplerOpened b s).berth c).pendingSince = (s.berth c).pendingSince ∧
    ((couplerOpened b s).berth c).agreement = (s.berth c).agreement ∧
    ((couplerOpened b s).berth c).causes = (s.berth c).causes ∧
    ((couplerOpened b s).berth c).status = (s.berth c).status ∧
    ((couplerOpened b s).berth c).syncHold = (s.berth c).syncHold ∧
    ((couplerOpened b s).berth c).separationCause = (s.berth c).separationCause ∧
    ((couplerOpened b s).berth c).qualification = (s.berth c).qualification ∧
    ((couplerOpened b s).sec c).deferrals = (s.sec c).deferrals ∧
    ((couplerOpened b s).sec c).schedule = (s.sec c).schedule ∧ (couplerOpened b s).unit c = s.unit c ∧
    (couplerOpened b s).reference c = s.reference c ∧ (couplerOpened b s).sync c = s.sync c := by
  unfold couplerOpened; (try dsimp only); (repeat' split) <;> simp [h]

/-- What `couplerAuxChanged` leaves alone. -/
@[simp] theorem couplerAuxChanged_frame (b : Berth) (x : Contact) (s : State) :
    (couplerAuxChanged b x s).now = s.now ∧ (couplerAuxChanged b x s).resetHeld = s.resetHeld ∧
    (couplerAuxChanged b x s).port = s.port ∧ (couplerAuxChanged b x s).tariff = s.tariff ∧
    (couplerAuxChanged b x s).settings = s.settings ∧ (couplerAuxChanged b x s).freeCount = s.freeCount ∧
    (couplerAuxChanged b x s).pending = s.pending ∧
    (∀ c, ((couplerAuxChanged b x s).berth c).inService = (s.berth c).inService) ∧
    (∀ c, ((couplerAuxChanged b x s).berth c).linkLost = (s.berth c).linkLost) ∧
    (∀ c, ((couplerAuxChanged b x s).sec c).emergencyStop = (s.sec c).emergencyStop) ∧
    (∀ c, ((couplerAuxChanged b x s).sec c).plugPilot = (s.sec c).plugPilot) ∧
    (∀ c, ((couplerAuxChanged b x s).sec c).outletAux = (s.sec c).outletAux) ∧
    (∀ c, ((couplerAuxChanged b x s).sec c).couplerAux = (s.sec c).couplerAux) ∧
    (∀ c, ((couplerAuxChanged b x s).sec c).earthResult = (s.sec c).earthResult) ∧
    (∀ k, ((couplerAuxChanged b x s).links.get k).up = (s.links.get k).up) := by
  unfold couplerAuxChanged; (try dsimp only); (repeat' split) <;> simp

/-- What `couplerAuxChanged` leaves alone of another berth. -/
@[simp] theorem couplerAuxChanged_others (b : Berth) (x : Contact) (c : Berth) (h : c ≠ b) (s : State) :
    ((couplerAuxChanged b x s).berth c).stage = (s.berth c).stage ∧
    ((couplerAuxChanged b x s).berth c).holder = (s.berth c).holder ∧
    ((couplerAuxChanged b x s).berth c).pendingSince = (s.berth c).pendingSince ∧
    ((couplerAuxChanged b x s).berth c).agreement = (s.berth c).agreement ∧
    ((couplerAuxChanged b x s).berth c).causes = (s.berth c).causes ∧
    ((couplerAuxChanged b x s).berth c).status = (s.berth c).status ∧
    ((couplerAuxChanged b x s).berth c).syncHold = (s.berth c).syncHold ∧
    ((couplerAuxChanged b x s).berth c).separationCause = (s.berth c).separationCause ∧
    ((couplerAuxChanged b x s).berth c).qualification = (s.berth c).qualification ∧
    ((couplerAuxChanged b x s).sec c).deferrals = (s.sec c).deferrals ∧
    ((couplerAuxChanged b x s).sec c).schedule = (s.sec c).schedule ∧
    (couplerAuxChanged b x s).unit c = s.unit c ∧ (couplerAuxChanged b x s).reference c = s.reference c ∧
    (couplerAuxChanged b x s).sync c = s.sync c := by
  unfold couplerAuxChanged; (try dsimp only); (repeat' split) <;> simp [h]

/-- What `openPulseExpired` leaves alone. -/
@[simp] theorem openPulseExpired_frame (b : Berth) (s : State) :
    (openPulseExpired b s).now = s.now ∧ (openPulseExpired b s).resetHeld = s.resetHeld ∧
    (openPulseExpired b s).port = s.port ∧ (openPulseExpired b s).tariff = s.tariff ∧
    (openPulseExpired b s).settings = s.settings ∧ (openPulseExpired b s).freeCount = s.freeCount ∧
    (openPulseExpired b s).pending = s.pending ∧
    (∀ c, ((openPulseExpired b s).berth c).inService = (s.berth c).inService) ∧
    (∀ c, ((openPulseExpired b s).berth c).linkLost = (s.berth c).linkLost) ∧
    (∀ c, ((openPulseExpired b s).sec c).emergencyStop = (s.sec c).emergencyStop) ∧
    (∀ c, ((openPulseExpired b s).sec c).plugPilot = (s.sec c).plugPilot) ∧
    (∀ c, ((openPulseExpired b s).sec c).outletAux = (s.sec c).outletAux) ∧
    (∀ c, ((openPulseExpired b s).sec c).couplerAux = (s.sec c).couplerAux) ∧
    (∀ c, ((openPulseExpired b s).sec c).earthResult = (s.sec c).earthResult) ∧
    (∀ k, ((openPulseExpired b s).links.get k).up = (s.links.get k).up) := by
  simp [openPulseExpired, ite_views, ite_record, ite_section, ite_links]

/-- What `openPulseExpired` leaves alone of another berth. -/
@[simp] theorem openPulseExpired_others (b : Berth) (c : Berth) (h : c ≠ b) (s : State) :
    ((openPulseExpired b s).berth c).stage = (s.berth c).stage ∧
    ((openPulseExpired b s).berth c).holder = (s.berth c).holder ∧
    ((openPulseExpired b s).berth c).pendingSince = (s.berth c).pendingSince ∧
    ((openPulseExpired b s).berth c).agreement = (s.berth c).agreement ∧
    ((openPulseExpired b s).berth c).causes = (s.berth c).causes ∧
    ((openPulseExpired b s).berth c).status = (s.berth c).status ∧
    ((openPulseExpired b s).berth c).syncHold = (s.berth c).syncHold ∧
    ((openPulseExpired b s).berth c).separationCause = (s.berth c).separationCause ∧
    ((openPulseExpired b s).berth c).qualification = (s.berth c).qualification ∧
    ((openPulseExpired b s).sec c).deferrals = (s.sec c).deferrals ∧
    ((openPulseExpired b s).sec c).schedule = (s.sec c).schedule ∧ (openPulseExpired b s).unit c = s.unit c ∧
    (openPulseExpired b s).reference c = s.reference c ∧ (openPulseExpired b s).sync c = s.sync c := by
  simp [openPulseExpired, ite_views, ite_record, ite_section, ite_links, h]

/-- What `beginCheck` leaves alone. -/
@[simp] theorem beginCheck_frame (b : Berth) (x : Bool) (s : State) :
    (beginCheck b x s).now = s.now ∧ (beginCheck b x s).resetHeld = s.resetHeld ∧
    (beginCheck b x s).links = s.links ∧ (beginCheck b x s).berths = s.berths ∧
    (beginCheck b x s).units = s.units ∧ (beginCheck b x s).pool = s.pool ∧
    (beginCheck b x s).references = s.references ∧ (beginCheck b x s).capture = s.capture ∧
    (beginCheck b x s).port = s.port ∧ (beginCheck b x s).budget = s.budget ∧
    (beginCheck b x s).meters = s.meters ∧ (beginCheck b x s).tariff = s.tariff ∧
    (beginCheck b x s).records = s.records ∧ (beginCheck b x s).settings = s.settings ∧
    (beginCheck b x s).sent = s.sent ∧ (beginCheck b x s).freeCount = s.freeCount ∧
    (beginCheck b x s).pending = s.pending ∧ (∀ c, (beginCheck b x s).berth c = s.berth c) ∧
    (∀ c, ((beginCheck b x s).sec c).emergencyStop = (s.sec c).emergencyStop) ∧
    (∀ c, ((beginCheck b x s).sec c).plugPilot = (s.sec c).plugPilot) ∧
    (∀ c, ((beginCheck b x s).sec c).outletAux = (s.sec c).outletAux) ∧
    (∀ c, ((beginCheck b x s).sec c).couplerAux = (s.sec c).couplerAux) ∧
    (∀ c, ((beginCheck b x s).sec c).earthResult = (s.sec c).earthResult) ∧
    (∀ c, ((beginCheck b x s).sec c).deferrals = (s.sec c).deferrals) ∧
    (∀ c, ((beginCheck b x s).sec c).outletCommand = (s.sec c).outletCommand) ∧
    (∀ c, (beginCheck b x s).unit c = s.unit c) ∧ (∀ c, (beginCheck b x s).reference c = s.reference c) ∧
    (∀ c, (beginCheck b x s).meter c = s.meter c) := by
  simp [beginCheck]

/-- What `beginCheck` leaves alone of another berth. -/
@[simp] theorem beginCheck_others (b : Berth) (x : Bool) (c : Berth) (h : c ≠ b) (s : State) :
    ((beginCheck b x s).sec c).schedule = (s.sec c).schedule ∧ (beginCheck b x s).sync c = s.sync c := by
  simp [beginCheck, h]

/-- What `checkDue` leaves alone. -/
@[simp] theorem checkDue_frame (b : Berth) (s : State) :
    (checkDue b s).now = s.now ∧ (checkDue b s).resetHeld = s.resetHeld ∧ (checkDue b s).links = s.links ∧
    (checkDue b s).berths = s.berths ∧ (checkDue b s).units = s.units ∧ (checkDue b s).pool = s.pool ∧
    (checkDue b s).references = s.references ∧ (checkDue b s).capture = s.capture ∧
    (checkDue b s).port = s.port ∧ (checkDue b s).budget = s.budget ∧ (checkDue b s).meters = s.meters ∧
    (checkDue b s).tariff = s.tariff ∧ (checkDue b s).records = s.records ∧
    (checkDue b s).settings = s.settings ∧ (checkDue b s).sent = s.sent ∧
    (checkDue b s).freeCount = s.freeCount ∧ (checkDue b s).pending = s.pending ∧
    (∀ c, (checkDue b s).berth c = s.berth c) ∧
    (∀ c, ((checkDue b s).sec c).emergencyStop = (s.sec c).emergencyStop) ∧
    (∀ c, ((checkDue b s).sec c).plugPilot = (s.sec c).plugPilot) ∧
    (∀ c, ((checkDue b s).sec c).outletAux = (s.sec c).outletAux) ∧
    (∀ c, ((checkDue b s).sec c).couplerAux = (s.sec c).couplerAux) ∧
    (∀ c, ((checkDue b s).sec c).earthResult = (s.sec c).earthResult) ∧
    (∀ c, ((checkDue b s).sec c).outletCommand = (s.sec c).outletCommand) ∧
    (∀ c, (checkDue b s).unit c = s.unit c) ∧ (∀ c, (checkDue b s).reference c = s.reference c) ∧
    (∀ c, (checkDue b s).meter c = s.meter c) := by
  unfold checkDue; (try dsimp only); (repeat' split) <;> simp

/-- What `checkDue` leaves alone of another berth. -/
@[simp] theorem checkDue_others (b : Berth) (c : Berth) (h : c ≠ b) (s : State) :
    ((checkDue b s).sec c).deferrals = (s.sec c).deferrals ∧
    ((checkDue b s).sec c).schedule = (s.sec c).schedule ∧ (checkDue b s).sync c = s.sync c := by
  unfold checkDue; (try dsimp only); (repeat' split) <;> simp [h]

/-- What `checkEnded` leaves alone. -/
@[simp] theorem checkEnded_frame (b : Berth) (s : State) :
    (checkEnded b s).now = s.now ∧ (checkEnded b s).resetHeld = s.resetHeld ∧ (checkEnded b s).port = s.port ∧
    (checkEnded b s).tariff = s.tariff ∧ (checkEnded b s).settings = s.settings ∧
    (checkEnded b s).freeCount = s.freeCount ∧ (checkEnded b s).pending = s.pending ∧
    (∀ c, ((checkEnded b s).berth c).inService = (s.berth c).inService) ∧
    (∀ c, ((checkEnded b s).berth c).linkLost = (s.berth c).linkLost) ∧
    (∀ c, ((checkEnded b s).sec c).emergencyStop = (s.sec c).emergencyStop) ∧
    (∀ c, ((checkEnded b s).sec c).plugPilot = (s.sec c).plugPilot) ∧
    (∀ c, ((checkEnded b s).sec c).outletAux = (s.sec c).outletAux) ∧
    (∀ c, ((checkEnded b s).sec c).couplerAux = (s.sec c).couplerAux) ∧
    (∀ c, ((checkEnded b s).sec c).earthResult = (s.sec c).earthResult) ∧
    (∀ k, ((checkEnded b s).links.get k).up = (s.links.get k).up) := by
  unfold checkEnded; (try dsimp only); (repeat' split) <;> simp

/-- What `checkEnded` leaves alone of another berth. -/
@[simp] theorem checkEnded_others (b : Berth) (c : Berth) (h : c ≠ b) (s : State) :
    ((checkEnded b s).berth c).stage = (s.berth c).stage ∧
    ((checkEnded b s).berth c).holder = (s.berth c).holder ∧
    ((checkEnded b s).berth c).pendingSince = (s.berth c).pendingSince ∧
    ((checkEnded b s).berth c).agreement = (s.berth c).agreement ∧
    ((checkEnded b s).berth c).causes = (s.berth c).causes ∧
    ((checkEnded b s).berth c).status = (s.berth c).status ∧
    ((checkEnded b s).berth c).syncHold = (s.berth c).syncHold ∧
    ((checkEnded b s).berth c).separationCause = (s.berth c).separationCause ∧
    ((checkEnded b s).berth c).qualification = (s.berth c).qualification ∧
    ((checkEnded b s).sec c).deferrals = (s.sec c).deferrals ∧
    ((checkEnded b s).sec c).schedule = (s.sec c).schedule ∧ (checkEnded b s).unit c = s.unit c ∧
    (checkEnded b s).reference c = s.reference c ∧ (checkEnded b s).sync c = s.sync c := by
  unfold checkEnded; (try dsimp only); (repeat' split) <;> simp [h]

/-- What `firstReading` leaves alone. -/
@[simp] theorem firstReading_frame (b : Berth) (s : State) :
    (firstReading b s).now = s.now ∧ (firstReading b s).resetHeld = s.resetHeld ∧
    (firstReading b s).capture = s.capture ∧ (firstReading b s).port = s.port ∧
    (firstReading b s).tariff = s.tariff ∧ (firstReading b s).settings = s.settings ∧
    (firstReading b s).freeCount = s.freeCount ∧ (firstReading b s).pending = s.pending ∧
    (∀ c, ((firstReading b s).berth c).inService = (s.berth c).inService) ∧
    (∀ c, ((firstReading b s).berth c).agreement = (s.berth c).agreement) ∧
    (∀ c, ((firstReading b s).berth c).status = (s.berth c).status) ∧
    (∀ c, ((firstReading b s).berth c).linkLost = (s.berth c).linkLost) ∧
    (∀ c, ((firstReading b s).berth c).separationCause = (s.berth c).separationCause) ∧
    (∀ c, ((firstReading b s).berth c).qualification = (s.berth c).qualification) ∧
    (∀ c, ((firstReading b s).sec c).emergencyStop = (s.sec c).emergencyStop) ∧
    (∀ c, ((firstReading b s).sec c).plugPilot = (s.sec c).plugPilot) ∧
    (∀ c, ((firstReading b s).sec c).outletAux = (s.sec c).outletAux) ∧
    (∀ c, ((firstReading b s).sec c).couplerAux = (s.sec c).couplerAux) ∧
    (∀ c, ((firstReading b s).sec c).earthResult = (s.sec c).earthResult) ∧
    (∀ k, ((firstReading b s).links.get k).up = (s.links.get k).up) := by
  simp [firstReading, ite_views, ite_record, ite_section, ite_links]

/-- What `firstReading` leaves alone of another berth. -/
@[simp] theorem firstReading_others (b : Berth) (c : Berth) (h : c ≠ b) (s : State) :
    ((firstReading b s).berth c).stage = (s.berth c).stage ∧
    ((firstReading b s).berth c).holder = (s.berth c).holder ∧
    ((firstReading b s).berth c).pendingSince = (s.berth c).pendingSince ∧
    ((firstReading b s).berth c).causes = (s.berth c).causes ∧
    ((firstReading b s).berth c).syncHold = (s.berth c).syncHold ∧
    ((firstReading b s).sec c).deferrals = (s.sec c).deferrals ∧
    ((firstReading b s).sec c).schedule = (s.sec c).schedule ∧ (firstReading b s).unit c = s.unit c ∧
    (firstReading b s).reference c = s.reference c ∧ (firstReading b s).sync c = s.sync c := by
  simp [firstReading, ite_views, ite_record, ite_section, ite_links, h]

/-- What `shipLinkLost` leaves alone. -/
@[simp] theorem shipLinkLost_frame (b : Berth) (s : State) :
    (shipLinkLost b s).now = s.now ∧ (shipLinkLost b s).resetHeld = s.resetHeld ∧
    (shipLinkLost b s).port = s.port ∧ (shipLinkLost b s).tariff = s.tariff ∧
    (shipLinkLost b s).settings = s.settings ∧ (shipLinkLost b s).freeCount = s.freeCount ∧
    (shipLinkLost b s).pending = s.pending ∧
    (∀ c, ((shipLinkLost b s).berth c).inService = (s.berth c).inService) ∧
    (∀ c, ((shipLinkLost b s).sec c).emergencyStop = (s.sec c).emergencyStop) ∧
    (∀ c, ((shipLinkLost b s).sec c).plugPilot = (s.sec c).plugPilot) ∧
    (∀ c, ((shipLinkLost b s).sec c).outletAux = (s.sec c).outletAux) ∧
    (∀ c, ((shipLinkLost b s).sec c).couplerAux = (s.sec c).couplerAux) ∧
    (∀ c, ((shipLinkLost b s).sec c).earthResult = (s.sec c).earthResult) ∧
    (∀ k, ((shipLinkLost b s).links.get k).up = (s.links.get k).up) := by
  unfold shipLinkLost; dsimp only; (repeat' split) <;> simp

/-- What `shipLinkLost` leaves alone of another berth. -/
@[simp] theorem shipLinkLost_others (b : Berth) (c : Berth) (h : c ≠ b) (s : State) :
    ((shipLinkLost b s).berth c).stage = (s.berth c).stage ∧
    ((shipLinkLost b s).berth c).holder = (s.berth c).holder ∧
    ((shipLinkLost b s).berth c).pendingSince = (s.berth c).pendingSince ∧
    ((shipLinkLost b s).berth c).agreement = (s.berth c).agreement ∧
    ((shipLinkLost b s).berth c).causes = (s.berth c).causes ∧
    ((shipLinkLost b s).berth c).status = (s.berth c).status ∧
    ((shipLinkLost b s).berth c).linkLost = (s.berth c).linkLost ∧
    ((shipLinkLost b s).berth c).syncHold = (s.berth c).syncHold ∧
    ((shipLinkLost b s).berth c).separationCause = (s.berth c).separationCause ∧
    ((shipLinkLost b s).berth c).qualification = (s.berth c).qualification ∧
    ((shipLinkLost b s).sec c).deferrals = (s.sec c).deferrals ∧
    ((shipLinkLost b s).sec c).schedule = (s.sec c).schedule ∧ (shipLinkLost b s).unit c = s.unit c ∧
    (shipLinkLost b s).reference c = s.reference c ∧ (shipLinkLost b s).sync c = s.sync c := by
  unfold shipLinkLost; dsimp only; (repeat' split) <;> simp [h]

/-- What `releaseShore` leaves alone. -/
@[simp] theorem releaseShore_frame (b : Berth) (s : State) :
    (releaseShore b s).now = s.now ∧ (releaseShore b s).resetHeld = s.resetHeld ∧
    (releaseShore b s).units = s.units ∧ (releaseShore b s).pool = s.pool ∧
    (releaseShore b s).references = s.references ∧ (releaseShore b s).capture = s.capture ∧
    (releaseShore b s).port = s.port ∧ (releaseShore b s).syncs = s.syncs ∧ (releaseShore b s).ramps = s.ramps ∧
    (releaseShore b s).budget = s.budget ∧ (releaseShore b s).sections = s.sections ∧
    (releaseShore b s).meters = s.meters ∧ (releaseShore b s).tariff = s.tariff ∧
    (releaseShore b s).records = s.records ∧ (releaseShore b s).settings = s.settings ∧
    (releaseShore b s).freeCount = s.freeCount ∧ (releaseShore b s).pending = s.pending ∧
    (∀ c, ((releaseShore b s).berth c).inService = (s.berth c).inService) ∧
    (∀ c, ((releaseShore b s).berth c).stage = (s.berth c).stage) ∧
    (∀ c, ((releaseShore b s).berth c).agreement = (s.berth c).agreement) ∧
    (∀ c, ((releaseShore b s).berth c).causes = (s.berth c).causes) ∧
    (∀ c, ((releaseShore b s).berth c).status = (s.berth c).status) ∧
    (∀ c, ((releaseShore b s).berth c).moduleCount = (s.berth c).moduleCount) ∧
    (∀ c, ((releaseShore b s).berth c).summaryReserved = (s.berth c).summaryReserved) ∧
    (∀ c, ((releaseShore b s).berth c).linkLost = (s.berth c).linkLost) ∧
    (∀ c, ((releaseShore b s).berth c).syncHold = (s.berth c).syncHold) ∧
    (∀ c, ((releaseShore b s).berth c).separationCause = (s.berth c).separationCause) ∧
    (∀ c, ((releaseShore b s).berth c).stageTimer = (s.berth c).stageTimer) ∧
    (∀ c, ((releaseShore b s).berth c).qualification = (s.berth c).qualification) ∧
    (∀ c, (releaseShore b s).sec c = s.sec c) ∧ (∀ c, (releaseShore b s).unit c = s.unit c) ∧
    (∀ c, (releaseShore b s).reference c = s.reference c) ∧ (∀ c, (releaseShore b s).sync c = s.sync c) ∧
    (∀ c, (releaseShore b s).ramp c = s.ramp c) ∧ (∀ c, (releaseShore b s).meter c = s.meter c) ∧
    (∀ k, ((releaseShore b s).links.get k).up = (s.links.get k).up) := by
  unfold releaseShore; (try dsimp only); (repeat' split) <;> simp

/-- What `releaseShore` leaves alone of another berth. -/
@[simp] theorem releaseShore_others (b : Berth) (c : Berth) (h : c ≠ b) (s : State) :
    ((releaseShore b s).berth c).holder = (s.berth c).holder ∧
    ((releaseShore b s).berth c).pendingSince = (s.berth c).pendingSince := by
  unfold releaseShore; (try dsimp only); (repeat' split) <;> simp [h]

/-- What `shipLinkUp` leaves alone. -/
@[simp] theorem shipLinkUp_frame (b : Berth) (s : State) :
    (shipLinkUp b s).now = s.now ∧ (shipLinkUp b s).resetHeld = s.resetHeld ∧ (shipLinkUp b s).pool = s.pool ∧
    (shipLinkUp b s).references = s.references ∧ (shipLinkUp b s).port = s.port ∧
    (shipLinkUp b s).ramps = s.ramps ∧ (shipLinkUp b s).budget = s.budget ∧ (shipLinkUp b s).meters = s.meters ∧
    (shipLinkUp b s).tariff = s.tariff ∧ (shipLinkUp b s).records = s.records ∧
    (shipLinkUp b s).settings = s.settings ∧ (shipLinkUp b s).freeCount = s.freeCount ∧
    (shipLinkUp b s).pending = s.pending ∧ (∀ c, ((shipLinkUp b s).berth c).inService = (s.berth c).inService) ∧
    (∀ c, ((shipLinkUp b s).berth c).holder = (s.berth c).holder) ∧
    (∀ c, ((shipLinkUp b s).berth c).pendingSince = (s.berth c).pendingSince) ∧
    (∀ c, ((shipLinkUp b s).berth c).causes = (s.berth c).causes) ∧
    (∀ c, ((shipLinkUp b s).berth c).status = (s.berth c).status) ∧
    (∀ c, ((shipLinkUp b s).berth c).moduleCount = (s.berth c).moduleCount) ∧
    (∀ c, ((shipLinkUp b s).berth c).summaryReserved = (s.berth c).summaryReserved) ∧
    (∀ c, ((shipLinkUp b s).berth c).syncHold = (s.berth c).syncHold) ∧
    (∀ c, ((shipLinkUp b s).berth c).separationCause = (s.berth c).separationCause) ∧
    (∀ c, ((shipLinkUp b s).berth c).stageTimer = (s.berth c).stageTimer) ∧
    (∀ c, ((shipLinkUp b s).berth c).qualification = (s.berth c).qualification) ∧
    (∀ c, ((shipLinkUp b s).sec c).emergencyStop = (s.sec c).emergencyStop) ∧
    (∀ c, ((shipLinkUp b s).sec c).plugPilot = (s.sec c).plugPilot) ∧
    (∀ c, ((shipLinkUp b s).sec c).outletAux = (s.sec c).outletAux) ∧
    (∀ c, ((shipLinkUp b s).sec c).couplerAux = (s.sec c).couplerAux) ∧
    (∀ c, ((shipLinkUp b s).sec c).earthResult = (s.sec c).earthResult) ∧
    (∀ c, ((shipLinkUp b s).sec c).deferrals = (s.sec c).deferrals) ∧
    (∀ c, ((shipLinkUp b s).sec c).schedule = (s.sec c).schedule) ∧
    (∀ c, ((shipLinkUp b s).sec c).outletCommand = (s.sec c).outletCommand) ∧
    (∀ c, (shipLinkUp b s).reference c = s.reference c) ∧ (∀ c, (shipLinkUp b s).ramp c = s.ramp c) ∧
    (∀ c, (shipLinkUp b s).meter c = s.meter c) ∧ (∀ k, ((shipLinkUp b s).links.get k).up = (s.links.get k).up) := by
  simp [shipLinkUp]

/-- What `shipLinkUp` leaves alone of another berth. -/
@[simp] theorem shipLinkUp_others (b : Berth) (c : Berth) (h : c ≠ b) (s : State) :
    ((shipLinkUp b s).berth c).stage = (s.berth c).stage ∧
    ((shipLinkUp b s).berth c).agreement = (s.berth c).agreement ∧
    ((shipLinkUp b s).berth c).linkLost = (s.berth c).linkLost ∧ (shipLinkUp b s).unit c = s.unit c ∧
    (shipLinkUp b s).sync c = s.sync c := by
  simp [shipLinkUp, h]

/-- What `reply` leaves alone. -/
@[simp] theorem reply_frame (l : Link) (code : Byte) (x : Status) (items : List Byte) (s : State) :
    (reply l code x items s).now = s.now ∧ (reply l code x items s).resetHeld = s.resetHeld ∧
    (reply l code x items s).links = s.links ∧ (reply l code x items s).berths = s.berths ∧
    (reply l code x items s).units = s.units ∧ (reply l code x items s).pool = s.pool ∧
    (reply l code x items s).references = s.references ∧ (reply l code x items s).capture = s.capture ∧
    (reply l code x items s).port = s.port ∧ (reply l code x items s).syncs = s.syncs ∧
    (reply l code x items s).ramps = s.ramps ∧ (reply l code x items s).budget = s.budget ∧
    (reply l code x items s).sections = s.sections ∧ (reply l code x items s).meters = s.meters ∧
    (reply l code x items s).tariff = s.tariff ∧ (reply l code x items s).records = s.records ∧
    (reply l code x items s).settings = s.settings ∧ (reply l code x items s).freeCount = s.freeCount ∧
    (reply l code x items s).pending = s.pending ∧ (∀ c, (reply l code x items s).berth c = s.berth c) ∧
    (∀ c, (reply l code x items s).sec c = s.sec c) ∧ (∀ c, (reply l code x items s).unit c = s.unit c) ∧
    (∀ c, (reply l code x items s).reference c = s.reference c) ∧
    (∀ c, (reply l code x items s).sync c = s.sync c) ∧ (∀ c, (reply l code x items s).ramp c = s.ramp c) ∧
    (∀ c, (reply l code x items s).meter c = s.meter c) := by
  simp [reply]

/-- What `refuse` leaves alone. -/
@[simp] theorem refuse_frame (l : Link) (code : Byte) (x : Reason) (s : State) :
    (refuse l code x s).now = s.now ∧ (refuse l code x s).resetHeld = s.resetHeld ∧
    (refuse l code x s).links = s.links ∧ (refuse l code x s).berths = s.berths ∧
    (refuse l code x s).units = s.units ∧ (refuse l code x s).pool = s.pool ∧
    (refuse l code x s).references = s.references ∧ (refuse l code x s).capture = s.capture ∧
    (refuse l code x s).port = s.port ∧ (refuse l code x s).syncs = s.syncs ∧
    (refuse l code x s).ramps = s.ramps ∧ (refuse l code x s).budget = s.budget ∧
    (refuse l code x s).sections = s.sections ∧ (refuse l code x s).meters = s.meters ∧
    (refuse l code x s).tariff = s.tariff ∧ (refuse l code x s).records = s.records ∧
    (refuse l code x s).settings = s.settings ∧ (refuse l code x s).freeCount = s.freeCount ∧
    (refuse l code x s).pending = s.pending ∧ (∀ c, (refuse l code x s).berth c = s.berth c) ∧
    (∀ c, (refuse l code x s).sec c = s.sec c) ∧ (∀ c, (refuse l code x s).unit c = s.unit c) ∧
    (∀ c, (refuse l code x s).reference c = s.reference c) ∧ (∀ c, (refuse l code x s).sync c = s.sync c) ∧
    (∀ c, (refuse l code x s).ramp c = s.ramp c) ∧ (∀ c, (refuse l code x s).meter c = s.meter c) := by
  simp [refuse]

/-- With the link UP a reply is what is sent last. -/
theorem reply_of_up (l : Link) (code : Byte) (x : Status) (items : List Byte) (s : State)
    (h : (s.links.get l).up = true) :
    reply l code x items s = { s with sent := s.sent ++ [.reply l code x none items] } := by
  simp [reply, sendOn, emit, h]

/-- With the link UP a refusal is what is sent last. -/
theorem refuse_of_up (l : Link) (code : Byte) (x : Reason) (s : State) (h : (s.links.get l).up = true) :
    refuse l code x s = { s with sent := s.sent ++ [refusal l code x] } := by
  simp [refuse, refusal, sendOn, emit, h]

/-- A valid frame on an UP link restarts the silence timer and does nothing else of its own (R168, R172). -/
theorem frameArrived_of_up (l : Link) (s : State) (h : (s.links.get l).up = true) :
    frameArrived l s =
      s.modLink l fun k => { k with silence := some (s.inSeconds (silenceSeconds l)), up := true, rx := [] } := by
  simp [frameArrived, h]

/-- The exceeded field is honest after it has been settled (R112). -/
theorem settleExceeded_honest (s : State) : (settleExceeded s).exceededHonest := by
  have e : settleExceeded s =
      if decide (s.settings.importLimit < s.reserved) == s.budget.exceeded then s
      else if decide (s.settings.importLimit < s.reserved) then
        latchShore .importExceeded (s.withExceeded (decide (s.settings.importLimit < s.reserved)))
      else s.withExceeded (decide (s.settings.importLimit < s.reserved)) := rfl
  rw [e]
  split
  · rename_i h
    exact (beq_iff_eq.mp h).symm
  · split
    · unfold State.exceededHonest State.reserved
      rw [(latchShore_frame _ _).2.2.2.2.2.2.2.2.2.2.1]
      simp [State.withExceeded, State.reserved]
    · rfl

/-- An honest exceeded field is left as it is (R112). -/
theorem settleExceeded_of_honest (s : State) (h : s.exceededHonest) : settleExceeded s = s := by
  unfold State.exceededHonest at h
  simp [settleExceeded, h]

/-- An event while the RESET line is released (logs 6, 15). -/
theorem event_of_released (f : State → State) (s : State) (h : s.resetHeld = false) :
    event f s = settleExceeded (f { s with sent := [] }) := by
  simp [event, h]

/-- An event while the RESET line is held (R177). -/
theorem event_of_held (f : State → State) (s : State) (h : s.resetHeld = true) : event f s = { s with sent := [] } := by
  simp [event, h]

/-- A valid frame on an UP link: the request's own effect, on the state as heard (R168, R172). -/
theorem validFrame_of_hears (l : Link) (f : State → State) (s : State) (h : s.hears l) :
    validFrame l f s = settleExceeded (f (heard l s)) := by
  obtain ⟨⟨hr, _⟩, hu⟩ := h
  unfold validFrame
  rw [event_of_released _ _ hr, frameArrived_of_up l { s with sent := [] } hu]
  rfl

end Sys2Proof.Machine
end

