-- ==== Sys2Proof/Laws/Requests.lean ====
section
/-! SUPPORT. What surrounds a request: the state a frame finds, the screening by link, length and berth octet, the screening
by service, stage and authority, the reply. A proof about a request cites these and never unfolds validFrame. -/

namespace Sys2Proof.Machine

/-- A link's state after it has been changed. -/
theorem State.modLink_get (s : State) (l k : Link) (f : LinkState → LinkState) :
    (s.modLink l f).links.get k = if k = l then f (s.links.get l) else s.links.get k := by
  simp [State.modLink, Links.get_set]

/-- A changed link. -/
@[simp] theorem State.modLink_get_self (s : State) (l : Link) (f : LinkState → LinkState) :
    (s.modLink l f).links.get l = f (s.links.get l) := by
  simp [State.modLink]

/-- The link a request was heard on, its silence timer restarted (R172). -/
@[simp] theorem heard_link (l : Link) (s : State) :
    (heard l s).links.get l =
      { s.links.get l with silence := some (s.inSeconds (silenceSeconds l)), up := true, rx := [] } := by
  unfold heard
  rw [State.modLink_get_self]

/-- The other links. -/
theorem heard_other_link (l k : Link) (s : State) (h : k ≠ l) : (heard l s).links.get k = s.links.get k := by
  unfold heard
  rw [State.modLink_get, if_neg h]

/-- The links' states, on an UP link. -/
theorem heard_up (l k : Link) (s : State) (h : s.hears l) : ((heard l s).links.get k).up = (s.links.get k).up := by
  by_cases e : k = l
  · subst e
    simp [h.2]
  · rw [heard_other_link l k s e]

/-- What hearing a frame leaves alone. -/
@[simp] theorem heard_frame (l : Link) (s : State) :
    (heard l s).now = s.now ∧ (heard l s).resetHeld = s.resetHeld ∧ (heard l s).berths = s.berths ∧
    (heard l s).units = s.units ∧ (heard l s).pool = s.pool ∧ (heard l s).references = s.references ∧
    (heard l s).capture = s.capture ∧ (heard l s).port = s.port ∧ (heard l s).syncs = s.syncs ∧
    (heard l s).ramps = s.ramps ∧ (heard l s).budget = s.budget ∧ (heard l s).sections = s.sections ∧
    (heard l s).meters = s.meters ∧ (heard l s).tariff = s.tariff ∧ (heard l s).records = s.records ∧
    (heard l s).settings = s.settings ∧ (heard l s).sent = [] ∧ (heard l s).freeCount = s.freeCount ∧
    (heard l s).pending = s.pending :=
  ⟨rfl, rfl, rfl, rfl, rfl, rfl, rfl, rfl, rfl, rfl, rfl, rfl, rfl, rfl, rfl, rfl, rfl, rfl, rfl⟩

/-- What hearing a frame leaves alone of a berth's parts. -/
@[simp] theorem heard_views (l : Link) (s : State) :
    (∀ c, (heard l s).berth c = s.berth c) ∧ (∀ c, (heard l s).unit c = s.unit c) ∧
    (∀ c, (heard l s).reference c = s.reference c) ∧ (∀ c, (heard l s).sync c = s.sync c) ∧
    (∀ c, (heard l s).ramp c = s.ramp c) ∧ (∀ c, (heard l s).sec c = s.sec c) ∧
    (∀ c, (heard l s).meter c = s.meter c) ∧ (∀ c, (heard l s).setting c = s.setting c) ∧
    (∀ m, (heard l s).module m = s.module m) ∧ (∀ c, (heard l s).reservation c = s.reservation c) ∧
    (∀ d c, (heard l s).input d c = s.input d c) :=
  ⟨fun _ => rfl, fun _ => rfl, fun _ => rfl, fun _ => rfl, fun _ => rfl, fun _ => rfl, fun _ => rfl, fun _ => rfl,
   fun _ => rfl, fun _ => rfl, fun d _ => by cases d <;> rfl⟩

/-- An honest state stays honest when a frame is heard, when something is sent, when links change. -/
theorem heard_honest (l : Link) (s : State) (h : s.exceededHonest) : (heard l s).exceededHonest := h

/-- Honesty is a matter of the settings and the budget alone. -/
theorem exceededHonest_of_same (s t : State) (hb : t.budget = s.budget) (hs : t.settings = s.settings)
    (h : s.exceededHonest) : t.exceededHonest := by
  unfold State.exceededHonest State.reserved at *
  rw [hb, hs]
  exact h

/-- A reply to a request that was heard. -/
theorem reply_heard (l : Link) (code : Byte) (x : Status) (items : List Byte) (s : State) :
    reply l code x items (heard l s) = emit (.reply l code x none items) (heard l s) :=
  reply_of_up l code x items _ (by simp)

/-- A refusal of a request that was heard. -/
theorem refuse_heard (l : Link) (code : Byte) (x : Reason) (s : State) :
    refuse l code x (heard l s) = emit (refusal l code x) (heard l s) :=
  refuse_of_up l code x _ (by simp)

/-- A request whose effect keeps the budget and the settings: what it leaves is its own effect on the state as heard. -/
theorem validFrame_eq (l : Link) (f : State → State) (s t : State) (h : s.hears l) (e : f (heard l s) = t)
    (hb : t.budget = s.budget) (hs : t.settings = s.settings) : validFrame l f s = t := by
  rw [validFrame_of_hears l f s h, e, settleExceeded_of_honest]
  exact exceededHonest_of_same s t hb hs h.1.2

/-- A request of the right length passes the first screening (R168, R170). -/
theorem withPlain_of_length (l : Link) (code : Byte) (p : List Byte) (f : State → State) (s : State)
    (h : payloadLength code.toNat l = some p.length) : withPlain l code p f s = f s := by
  simp [withPlain, h]

/-- A request that the link does not accept (R169). -/
theorem withPlain_of_dash (l : Link) (code : Byte) (p : List Byte) (f : State → State) (s : State)
    (h : payloadLength code.toNat l = none) : withPlain l code p f s = refuse l code .notPermitted s := by
  simp [withPlain, h]

/-- A request of the wrong length (R168). -/
theorem withPlain_of_other_length (l : Link) (code : Byte) (p : List Byte) (f : State → State) (s : State) (n : Nat)
    (h : payloadLength code.toNat l = some n) (hn : p.length ≠ n) :
    withPlain l code p f s = refuse l code .badValue s := by
  simp [withPlain, h, hn]

/-- A berth's octet names it (R170). -/
@[simp] theorem berthOf_berthOctet (b : Berth) : berthOf (berthOctet b) = some b := by
  cases b <;> rfl

/-- A request for a berth, of the right length, acts for that berth (R169, R170). -/
theorem withBerth_of_speaks (l : Link) (code : Byte) (b : Berth) (p : List Byte) (f : Berth → List Byte → State → State)
    (s : State) (hl : speaksFor l b ∨ l = .tariff)
    (h : payloadLength code.toNat l = some ((berthField l b).length + p.length)) :
    withBerth l code (berthField l b ++ p) f s = f b p s := by
  have e : (berthField l b ++ p).length = (berthField l b).length + p.length := by simp
  unfold withBerth
  rw [withPlain_of_length _ _ _ _ _ (by rw [h, e])]
  rcases hl with (rfl | rfl) | rfl <;> simp [berthField]

/-- A request for a berth that the link does not accept (R169). -/
theorem withBerth_of_dash (l : Link) (code : Byte) (p : List Byte) (f : Berth → List Byte → State → State) (s : State)
    (h : payloadLength code.toNat l = none) : withBerth l code p f s = refuse l code .notPermitted s := by
  unfold withBerth
  exact withPlain_of_dash _ _ _ _ _ h

/-- A request for a berth of the wrong length (R168). -/
theorem withBerth_of_other_length (l : Link) (code : Byte) (p : List Byte) (f : Berth → List Byte → State → State)
    (s : State) (n : Nat) (h : payloadLength code.toNat l = some n) (hn : p.length ≠ n) :
    withBerth l code p f s = refuse l code .badValue s := by
  unfold withBerth
  exact withPlain_of_other_length _ _ _ _ _ n h hn

/-- A request whose berth octet names no berth (R169). -/
theorem withBerth_of_no_berth (l : Link) (code : Byte) (p : List Byte) (f : Berth → List Byte → State → State)
    (s : State) (hl : ∀ b, l ≠ .ship b) (h : payloadLength code.toNat l = some p.length)
    (hb : 2 < (p.headD 0#8).toNat) : withBerth l code p f s = refuse l code .badValue s := by
  have hq : berthOf (p.headD 0#8) = none := by
    unfold berthOf
    split <;> first | omega | rfl
  unfold withBerth
  rw [withPlain_of_length _ _ _ _ _ h]
  rcases l with _ | b | _
  · simp only [hq]
  · exact absurd rfl (hl b)
  · simp only [hq]

/-- A request that passes the berth's screening (R5, steps 2 to 4). -/
theorem screened_of_ok (l : Link) (code : Byte) (b : Berth) (x y z : Bool) (f : State → State) (s : State)
    (hx : x = true → (s.berth b).inService = true) (hy : y = true)
    (hz : z = true → (s.berth b).holder = requester l) : screened l code b x y z f s = f s := by
  unfold screened
  cases x <;> cases z <;> simp_all

end Sys2Proof.Machine
end

