-- ==== Sys2Proof/Laws/Time.lean ====
section
/-! SUPPORT. What the passing of time does: the references' accumulators and the REFERENCE messages of the crossings passed
(R74); the round trip of a bus frame's octets (R81); the range of a wrapped angle (R89). -/

namespace Sys2Proof.Machine

/-- What `advance` leaves alone: all but the time, the references and the outbox. -/
@[simp] theorem advance_frame (dt : Nat) (s : State) :
    (advance dt s).now = s.now + dt ∧ (advance dt s).resetHeld = s.resetHeld ∧ (advance dt s).links = s.links ∧
    (advance dt s).berths = s.berths ∧ (advance dt s).units = s.units ∧ (advance dt s).pool = s.pool ∧
    (advance dt s).capture = s.capture ∧ (advance dt s).port = s.port ∧ (advance dt s).syncs = s.syncs ∧
    (advance dt s).ramps = s.ramps ∧ (advance dt s).budget = s.budget ∧ (advance dt s).sections = s.sections ∧
    (advance dt s).meters = s.meters ∧ (advance dt s).tariff = s.tariff ∧ (advance dt s).records = s.records ∧
    (advance dt s).settings = s.settings ∧ (advance dt s).freeCount = s.freeCount ∧
    (advance dt s).pending = s.pending ∧ (advance dt s).sent = s.sent ++ referenceMessages dt s ∧
    (∀ c, (advance dt s).berth c = s.berth c) ∧ (∀ c, (advance dt s).sec c = s.sec c) ∧
    (∀ c, (advance dt s).unit c = s.unit c) ∧ (∀ c, (advance dt s).sync c = s.sync c) ∧
    (∀ c, (advance dt s).ramp c = s.ramp c) ∧ (∀ c, (advance dt s).meter c = s.meter c) ∧
    (∀ c, (advance dt s).reference c = (s.reference c).run dt) ∧
    (∀ m, (advance dt s).module m = s.module m) ∧ (∀ d c, (advance dt s).input d c = s.input d c) ∧
    (∀ c, (advance dt s).setting c = s.setting c) ∧ (∀ c, (advance dt s).reservation c = s.reservation c) ∧
    (advance dt s).reserved = s.reserved := by
  refine ⟨rfl, rfl, rfl, rfl, rfl, rfl, rfl, rfl, rfl, rfl, rfl, rfl, rfl, rfl, rfl, rfl, rfl, rfl, rfl, fun _ => rfl,
    fun _ => rfl, fun _ => rfl, fun _ => rfl, fun _ => rfl, fun _ => rfl, fun c => ?_, fun _ => rfl,
    fun d _ => by cases d <;> rfl, fun _ => rfl, fun _ => rfl, rfl⟩
  cases c <;> rfl

/-- What the passing of time leaves alone of a reference. -/
@[simp] theorem Reference.run_frame (dt : Nat) (r : Reference) :
    (r.run dt).mode = r.mode ∧ (r.run dt).word = r.word ∧ (r.run dt).commanded = r.commanded ∧
    (r.run dt).clamped = r.clamped := by
  unfold Reference.run; split <;> simp

@[simp] theorem Reference.run_zero (r : Reference) : r.run 0 = r := by
  simp [Reference.run]

/-- A stopped reference stands still. -/
theorem Reference.run_stopped (dt : Nat) (r : Reference) (h : r.mode = .stopped) : r.run dt = r := by
  simp [Reference.run, h]

@[simp] theorem crossingsPassed_zero (b : Berth) (r : Reference) : crossingsPassed 0 b r = [] := by
  simp [crossingsPassed]

theorem crossingsPassed_stopped (dt : Nat) (b : Berth) (r : Reference) (h : r.mode = .stopped) :
    crossingsPassed dt b r = [] := by
  simp [crossingsPassed, h]

/-- With no time to pass nothing changes. -/
@[simp] theorem advance_zero (s : State) : advance 0 s = s := by
  simp [advance, referenceMessages]

/-- A moment that has come or passed changes nothing. -/
theorem advanceTo_of_le (m : Nat) (s : State) (h : m ≤ s.now) : advanceTo m s = s := by
  simp [advanceTo, Nat.sub_eq_zero_of_le h]

/-- The time after it is carried forward to a moment. -/
@[simp] theorem advanceTo_now (m : Nat) (s : State) : (advanceTo m s).now = max s.now m := by
  simp [advanceTo]; omega

/-- An accumulator carries at most once in a tick. -/
theorem Reference.carries_succ_le (dt : Nat) (r : Reference) : r.carries (dt + 1) ≤ r.carries dt + 1 := by
  unfold Reference.carries
  have h := r.word.isLt
  have e : r.word.toNat * (dt + 1) = r.word.toNat * dt + r.word.toNat := Nat.mul_succ _ _
  omega

theorem Reference.carries_mono (dt : Nat) (r : Reference) : r.carries dt ≤ r.carries (dt + 1) := by
  unfold Reference.carries
  have e : r.word.toNat * (dt + 1) = r.word.toNat * dt + r.word.toNat := Nat.mul_succ _ _
  omega

@[simp] theorem Reference.carries_zero (r : Reference) : r.carries 0 = 0 := by
  unfold Reference.carries
  have h := r.accumulator.isLt
  omega

/-- A berth's messages among the crossings passed, all alike: the crossings owed before and the carries before the last
tick. -/
theorem crossingsPassed_messages (dt : Nat) (b : Berth) (r : Reference) (h : r.mode ≠ .stopped) (d : 0 < dt) :
    (crossingsPassed dt b r).map Prod.snd =
      List.replicate (r.owed + r.carries (dt - 1)) (.reference b r.mode r.word) := by
  have d' : dt ≠ 0 := by omega
  simp only [crossingsPassed, h, d', or_self, if_false, List.map_map]
  rw [List.eq_replicate_iff]
  refine ⟨by simp, ?_⟩
  intro x hx
  obtain ⟨t, _, rfl⟩ := List.mem_map.mp hx
  rfl

/-- Every message among a berth's crossings passed is that berth's. -/
theorem crossingsPassed_berth (dt : Nat) (b : Berth) (r : Reference) (x : Nat × Sent) (h : x ∈ crossingsPassed dt b r) :
    x.2 = .reference b r.mode r.word := by
  unfold crossingsPassed at h
  split at h
  · simp at h
  · obtain ⟨t, _, rfl⟩ := List.mem_map.mp h
    rfl

theorem insertByTick_perm {α : Type} (x : Nat × α) (l : List (Nat × α)) : (insertByTick x l).Perm (x :: l) := by
  induction l with
  | nil => exact List.Perm.refl _
  | cons y rest ih =>
    unfold insertByTick
    split
    · exact List.Perm.refl _
    · exact (List.Perm.cons y ih).trans (List.Perm.swap x y rest)

theorem insertByTick_fold_perm {α : Type} (new l : List (Nat × α)) :
    (new.foldl (fun l x => insertByTick x l) l).Perm (new ++ l) := by
  induction new generalizing l with
  | nil => exact List.Perm.refl _
  | cons x rest ih =>
    rw [List.foldl_cons, List.cons_append]
    exact ((ih _).trans ((insertByTick_perm x l).append_left rest)).trans List.perm_middle

/-- The messages of the crossings passed are those of the three berths, in some order. -/
theorem referenceMessages_perm (dt : Nat) (s : State) :
    (referenceMessages dt s).Perm
      ((crossingsPassed dt .C s.references.c ++ (crossingsPassed dt .B s.references.b ++
        crossingsPassed dt .A s.references.a)).map Prod.snd) := by
  unfold referenceMessages
  exact ((insertByTick_fold_perm _ _).trans ((insertByTick_fold_perm _ _).append_left _)).map _

/-- Is something sent a REFERENCE message of a berth? -/
def Sent.isReferenceOf (b : Berth) (x : Sent) : Bool :=
  match x with
  | .reference c _ _ => decide (c = b)
  | _ => false

theorem crossingsPassed_own (dt : Nat) (b : Berth) (r : Reference) :
    ((crossingsPassed dt b r).map Prod.snd).filter (Sent.isReferenceOf b) = (crossingsPassed dt b r).map Prod.snd := by
  rw [List.filter_eq_self]
  intro x hx
  obtain ⟨y, hy, rfl⟩ := List.mem_map.mp hx
  rw [crossingsPassed_berth dt b r y hy]
  simp [Sent.isReferenceOf]

theorem crossingsPassed_other (dt : Nat) (b c : Berth) (r : Reference) (h : c ≠ b) :
    ((crossingsPassed dt c r).map Prod.snd).filter (Sent.isReferenceOf b) = [] := by
  rw [List.filter_eq_nil_iff]
  intro x hx
  obtain ⟨y, hy, rfl⟩ := List.mem_map.mp hx
  rw [crossingsPassed_berth dt c r y hy]
  simp [Sent.isReferenceOf, h]

/-- No crossing is lost while time passes: a running reference sends one message for each crossing owed and for each carry
but one at the last tick, which is then owed. -/
theorem referenceMessages_of (dt : Nat) (b : Berth) (s : State) (h : (s.reference b).mode ≠ .stopped) (d : 0 < dt) :
    (referenceMessages dt s).filter (Sent.isReferenceOf b) =
      List.replicate ((s.reference b).owed + (s.reference b).carries (dt - 1))
        (.reference b (s.reference b).mode (s.reference b).word) := by
  rw [← crossingsPassed_messages dt b (s.reference b) h d]
  have p := (referenceMessages_perm dt s).filter (Sent.isReferenceOf b)
  simp only [List.map_append, List.filter_append] at p
  have q : (referenceMessages dt s).filter (Sent.isReferenceOf b) |>.Perm
      ((crossingsPassed dt b (s.reference b)).map Prod.snd) := by
    refine p.trans ?_
    cases b <;>
      simp only [crossingsPassed_own, crossingsPassed_other dt _ _ _ (by decide : Berth.A ≠ .B),
        crossingsPassed_other dt _ _ _ (by decide : Berth.A ≠ .C), crossingsPassed_other dt _ _ _ (by decide : Berth.B ≠ .A),
        crossingsPassed_other dt _ _ _ (by decide : Berth.B ≠ .C), crossingsPassed_other dt _ _ _ (by decide : Berth.C ≠ .A),
        crossingsPassed_other dt _ _ _ (by decide : Berth.C ≠ .B), List.nil_append, List.append_nil] <;>
      exact List.Perm.refl _
  rw [crossingsPassed_messages dt b (s.reference b) h d] at q ⊢
  exact List.perm_replicate.mp q

/-- With no expiry due no crossing is owed. -/
theorem owed_of_none_due (b : Berth) (s : State) (h : dueEvents s = []) (r : (s.reference b).mode ≠ .stopped) :
    (s.reference b).owed = 0 := by
  simp only [dueEvents, List.append_eq_nil_iff, List.flatMap_eq_nil_iff] at h
  have hb := h.1.1.1.1.2 b (by cases b <;> simp [allBerths])
  simp only [berthDue, List.append_eq_nil_iff] at hb
  have hc : dueAt s (crossingDue b s) (.referenceCrossing b) = [] := hb.1.1.1.1.1.1.1.1.1.1.1.1.1.2
  refine Nat.eq_zero_of_not_pos fun n => ?_
  have e : crossingDue b s = some s.now := by
    simp [crossingDue, r, n]
  rw [e] at hc
  simp [dueAt] at hc

/-- With no expiry due one tick sends nothing. -/
theorem advance_one_of_none_due (s : State) (h : dueEvents s = []) : (advance 1 s).sent = s.sent := by
  have e : ∀ b, crossingsPassed 1 b (s.reference b) = [] := by
    intro b
    by_cases r : (s.reference b).mode = .stopped
    · exact crossingsPassed_stopped 1 b _ r
    · simp [crossingsPassed, r, owed_of_none_due b s h r]
  have a := e .A
  have b := e .B
  have c := e .C
  simp only [State.reference, PerBerth.get] at a b c
  simp [referenceMessages, a, b, c]

theorem octets_length (w n : Nat) : (octets w n).length = w := by
  induction w with
  | zero => rfl
  | succ w ih => simp [octets, ih]

theorem number_foldl (os : List Byte) (n : Nat) :
    os.foldl (fun n o => n * 256 + o.toNat) n = n * 256 ^ os.length + number os := by
  induction os generalizing n with
  | nil => simp [number]
  | cons o rest ih =>
    simp only [List.foldl_cons, List.length_cons, number]
    rw [ih, ih (0 * 256 + o.toNat), Nat.pow_succ, Nat.zero_mul, Nat.zero_add, Nat.add_mul,
      Nat.mul_assoc, Nat.mul_comm 256, Nat.add_assoc]

/-- Octets spell the number they were made of, as far as they hold it. -/
theorem number_octets (w n : Nat) : number (octets w n) = n % 256 ^ w := by
  induction w with
  | zero => simp [octets, number, Nat.mod_one]
  | succ w ih =>
    have e : number (octets (w + 1) n) = (n / 256 ^ w % 256) * 256 ^ w + number (octets w n) := by
      rw [octets, number, List.foldl_cons, number_foldl, octets_length]
      simp
    rw [e, ih, Nat.pow_succ, Nat.mod_mul, Nat.mul_comm, Nat.add_comm]

theorem perBerthOctets_length (w : Nat) (n : PerBerth Nat) : (perBerthOctets w n).length = 3 * w := by
  simp [perBerthOctets, octets_length]; omega

theorem busFrameBody_length (echo : BitVec 8) (v : PerBerth BusValues) : (busFrameBody echo v).length = 25 := by
  simp [busFrameBody, perBerthOctets_length]

theorem crcOctets_length (os : List Byte) : (crcOctets os).length = 2 := rfl

/-- The octets of a bus frame have their length and pass their check. -/
theorem busFrameGood_octets (echo : BitVec 8) (v : PerBerth BusValues) : busFrameGood (busFrameOctets echo v) = true := by
  simp [busFrameGood, busFrameOctets, busFrameBody_length, crcOctets_length]

theorem busFrameOctets_echo (echo : BitVec 8) (v : PerBerth BusValues) : (busFrameOctets echo v).headD 0#8 = echo := by
  simp [busFrameOctets, busFrameBody]

/-- The values of a bus frame are those its octets were made of. -/
theorem busFrameOctets_values (echo : BitVec 8) (v : PerBerth BusValues) :
    (⟨busValuesAt 0 (busFrameOctets echo v), busValuesAt 1 (busFrameOctets echo v),
      busValuesAt 2 (busFrameOctets echo v)⟩ : PerBerth BusValues) = v := by
  have n2 : ∀ x : BitVec 16, BitVec.ofNat 16 (number (octets 2 x.toNat)) = x := by
    intro x; rw [number_octets]; apply BitVec.eq_of_toNat_eq; simp; omega
  have n4 : ∀ x : BitVec 32, BitVec.ofNat 32 (number (octets 4 x.toNat)) = x := by
    intro x; rw [number_octets]; apply BitVec.eq_of_toNat_eq; simp; omega
  obtain ⟨⟨a1, a2, a3⟩, ⟨b1, b2, b3⟩, ⟨c1, c2, c3⟩⟩ := v
  simp only [busValuesAt, busFrameOctets, busFrameBody, perBerthOctets, octets, List.cons_append, List.nil_append,
    List.drop_succ_cons, List.drop_zero, List.take_succ_cons, List.take_zero, Nat.mul_zero,
    Nat.add_zero, Nat.mul_one, Nat.reduceAdd, Nat.reduceMul]
  simp only [octets] at n2 n4
  simp only [n2, n4]

/-- A bus frame made of values is judged with those values (R82). -/
theorem takeBusFrame_octets (echo : BitVec 8) (v : PerBerth BusValues) (s : State) :
    takeBusFrame (busFrameOctets echo v) s = takeGoodFrame echo v s := by
  simp only [takeBusFrame, busFrameGood_octets, if_true, busFrameOctets_echo, busFrameOctets_values]

/-- A bus frame of another length or with a wrong check is only counted (R82). -/
theorem takeBusFrame_of_bad (os : List Byte) (s : State) (h : os.length ≠ 27 ∨ os.drop 25 ≠ crcOctets (os.take 25)) :
    takeBusFrame os s = s.modPort fun p => { p with badFrames := saturating p.badFrames } := by
  have g : busFrameGood os = false := by
    unfold busFrameGood
    rcases h with h | h <;> simp [h]
  simp [takeBusFrame, g]

/-- A wrapped angle lies in −1800 to +1799, whole turns away from the angle. -/
theorem wrapAngle_range (v : Int) : -1800 ≤ wrapAngle v ∧ wrapAngle v ≤ 1799 ∧ (wrapAngle v - v) % 3600 = 0 := by
  unfold wrapAngle
  omega

end Sys2Proof.Machine
end

