-- ==== Sys2Proof/WellFormed.lean ====
section
/-! DEFINITION. Which commands are well formed: a frame's payload fits its length octet, and a frame's row is the one
R167 and R168 give it. The remaining operands are in range by their types. -/

namespace Sys2Proof

/-- A frame's payload holds at most 120 octets (R167). -/
def payloadFits (payload : List Byte) : Bool :=
  payload.length ≤ 120

/-- The checks of a command's operands. A request that a link's role or R170's length refuses is well formed: the part
answers it. -/
def Instr.wellFormed (c : Instr) : Bool :=
  match c with
  | .unknownRequest _ code payload => !knownCode code && payloadFits payload
  | .nonRequestFrame _ kind _ payload => decide (kind ≠ 0#8) && payloadFits payload
  | .discardedFrame _ octets => decide (parseFrame octets = .bad)
  | .berthEnable _ p | .berthDisable _ p | .readBerth _ p | .readOffer _ p | .shipStatus _ p | .requestPage _ p
  | .continuationPage _ p | .requestAuthority _ p | .releaseAuthority _ p | .seizeAuthority _ p | .connect _ p
  | .rampStep _ p | .hold _ p | .depart _ p | .abort _ p | .forceSeparate _ p | .clearTrip _ p
  | .clearModuleFault _ p | .readModulePool _ p | .readMeasurement _ p | .readSynchroniser _ p | .readRamp _ p
  | .readBudget _ p | .readProtection _ p | .readMeter _ p | .readTariff _ p | .readRecordPool _ p | .setClock _ p
  | .setBerthSettings _ p | .setPlantSetting _ p | .readSettings _ p | .plantReset _ p | .readNotices _ p
  | .setNoticeMask _ p | .keepAlive _ p | .loadTariffTable _ p | .fetchRecord _ p | .releaseRecord _ p
  | .fetchCopy _ p | .releaseCopy _ p => payloadFits p
  | .resetLine | .powerOn | .linkLoss _ | .authorityExpiry _ | .allocationTimeout _ | .energiseTimeout _
  | .pageWaitExpiry _ | .chargeStart | .cycleTimePassed _ | .chargeTimeout _ | .idleHoldExpiry _ | .drainExpiry _
  | .chargedReport _ | .faultReport _ _ | .referenceCrossing _ | .zeroCrossing _ _ _ | .deadTimerExpiry _ _
  | .sampleStrobe | .busFrame _ _ _ _ _ | .clockAdvance | .syncTimeout _ | .closeFailure _ | .rampAdvance _
  | .separationWaitExpiry _ | .overloadExpiry _ | .outletCloseTimeout _ | .outletOpenTimeout _
  | .couplerOpenPulseExpiry _ | .earthCheckDue _ | .earthCheckEnd _ | .graceExpiry _ | .emergencyStopChange _ _
  | .plugPilotChange _ _ | .outletAuxChange _ _ | .couplerAuxChange _ _ | .earthResultChange _ _
  | .resetLineAsserted => true

end Sys2Proof
end

