-- ==== Sys2Proof/Tests/Slice0.lean ====
section
/-! SUPPORT. The model's own tests: well-formedness, the manual's worked figures, single commands on small states, and for
each statement of Certificates/Slice0/Obligations.lean concrete states that meet the hypotheses of its clauses. -/

namespace Sys2Proof.Tests

set_option linter.unusedSimpArgs false
set_option Elab.async false

open Sys2Proof.Machine

/-! Well-formedness: each check with a term it accepts and an ill-formed one it refuses. -/

theorem test_wf_unknownRequest :
    (Instr.unknownRequest .shore 0x29#8 []).wellFormed = true ∧
      (Instr.unknownRequest .shore 0x01#8 []).wellFormed = false := by decide

theorem test_wf_nonRequestFrame :
    (Instr.nonRequestFrame .tariff 1#8 0x01#8 []).wellFormed = true ∧
      (Instr.nonRequestFrame .tariff 0#8 0x01#8 []).wellFormed = false := by decide

theorem test_wf_discardedFrame :
    (Instr.discardedFrame .shore [1#8]).wellFormed = true ∧
      (Instr.discardedFrame .shore [2#8, 0#8]).wellFormed = false := by decide

theorem test_wf_payload :
    (Instr.keepAlive .shore (List.replicate 120 0#8)).wellFormed = true ∧
      (Instr.keepAlive .shore (List.replicate 121 0#8)).wellFormed = false ∧
      (Instr.unknownRequest .shore 0x29#8 (List.replicate 121 0#8)).wellFormed = false ∧
      (Instr.nonRequestFrame .shore 2#8 0#8 (List.replicate 121 0#8)).wellFormed = false := by decide

/-! Frames (R167, R168): the check of the nine digits is 29B1h; a frame is found again by the receiver. -/

theorem test_crc : crc16 [0x31#8, 0x32#8, 0x33#8, 0x34#8, 0x35#8, 0x36#8, 0x37#8, 0x38#8, 0x39#8] = 0x29B1#16 := by
  decide +kernel

theorem test_frame_parses :
    parseFrame (frameOctets 0#8 0x23#8 []).tail = .valid 0#8 0x23#8 [] [] ∧
      parseFrame [123#8] = .bad ∧ parseFrame [1#8] = .bad ∧ parseFrame [2#8] = .incomplete := by decide +kernel

theorem test_reply_runs :
    (replyFrames 0x1F#8 .done none (List.replicate 118 0#8)).length = 1 ∧
      (replyFrames 0x1F#8 .done none (List.replicate 119 0#8)).length = 2 ∧
      (replyFrames 0x1F#8 .done none (List.replicate 235 0#8)).length = 3 := by decide +kernel

/-! Worked figures of the manual. -/

theorem test_word_60060 : frequencyWord 60060 = 25796#32 := by decide +kernel

theorem test_period_figures :
    periodFrequency 140000#32 = some 71429 ∧ periodFrequency 166667#32 = some 60000 ∧
      periodFrequency 240000#32 = some 41667 ∧ periodFrequency 139999#32 = none ∧
      periodFrequency 240001#32 = none := by decide +kernel

theorem test_phase_error : phaseOf 4285000000#32 = 3592 ∧ phaseError 3592 = 8 ∧ phaseError 1800 = -1800 := by
  decide +kernel

theorem test_phase_angle : phaseAngle 1852 166667 = 40 ∧ wrapAngle 1813 = -1787 ∧ wrapAngle (-1808) = 1792 := by
  decide +kernel

theorem test_advance_angles :
    advanceAngle 61 80 = 18 ∧ advanceAngle 150 250 = 135 ∧ advanceAngle (-25) 80 = -7 ∧
      advanceAngle (-125) 50 = -23 ∧ advanceAngle 10 40 = 1 := by decide +kernel

theorem test_shares_11503 : (List.range 6).map (shareAt 11503 6) = [1918, 1917, 1917, 1917, 1917, 1917] := by
  decide +kernel

theorem test_metering_figures : 270004500000 / cjPerWh = 750012 ∧ 270004500000 % cjPerWh = 180000 := by decide +kernel

theorem test_measured_kw :
    measuredKw 1499#32 = 1 ∧ measuredKw 1500#32 = 2 ∧ measuredKw (BitVec.ofInt 32 (-1500)) = -2 := by decide +kernel

/-! The states the tests are made of. -/

/-- Every link UP, every berth in service with its link-lost flag clear, VACANT. -/
def linked : State :=
  { State.reset with
    links := { shore := { LinkState.reset .shore with up := true },
               ships := ⟨{ LinkState.reset (.ship .A) with up := true }, { LinkState.reset (.ship .B) with up := true },
                         { LinkState.reset (.ship .C) with up := true }⟩,
               tariff := { LinkState.reset .tariff with up := true } },
    berths := .same { BerthRecord.reset with inService := true, linkLost := false } }

/-- Berth A in a stage, with an agreement and the shore as the authority holder. -/
def inStage (g : Stage) : State :=
  linked.modBerth .A fun r =>
    { r with stage := g, holder := .shore,
             agreement := some { frequency := .hz60, voltage := .v11000, agreedKw := 8000, minimumKw := 4000,
                                 role := .shipForms, pages := [] } }

/-- As `inStage`, with the ship as the holder. -/
def shipHolds (g : Stage) : State := (inStage g).modBerth .A fun r => { r with holder := .ship }

/-- As `inStage`, with no holder. -/
def freeStage (g : Stage) : State := (inStage g).modBerth .A fun r => { r with holder := .nobody }

/-- As `inStage`, with the outlet and the coupler closed and a setpoint of 4,000 kW. -/
def joined (g : Stage) : State :=
  ((inStage g).modSec .A fun c =>
    { c with outletCommand := .closed, outletAux := .closed, couplerAux := .closed, plugPilot := .closed }).modRamp .A
      fun r => { r with setpoint := 4000, wanted := 4000, target := 4000, capacity := 8000 }

/-- The offer of berth A at the defaults. -/
def page : Offer :=
  { berth := .A, frequencies := .both, voltage := .v11000, kw := 12000, preference := .followPreferred,
    maxRate := 1000 }

/-- Berth A collecting continuation pages, with a last mark and so many pages stored. -/
def collecting (mark : Option Bool) (n : Nat) : State :=
  (shipHolds .negotiating).modUnit .A fun u =>
    { u with phase := .collecting, offer := some page, lastMark := mark, lastReply := mark.map fun x => { mark := x },
             pages := List.replicate n { kind := .callSign, text := [] }, pageWait := some 5,
             terms := some { frequency := .hz60, voltage := .v11000, agreedKw := 8000, minimumKw := 4000,
                             role := .shipForms } }

/-- The record that `queued` holds. -/
def sample : PoolRecord :=
  .interval { berth := .A, contract := none, start := 0#32, length := 0, band := 0, delivered := 0, reverse := 0,
              charge := 0, demand := 0, marks := Marks.clear, merged := 0 }

/-- One record, number 7, in slot 0, at the head of the tariff queue and of berth A's copy queue. -/
def queued : State :=
  setSlot 0 (.used 7#16 sample 2)
    (linked.modRecords fun p =>
      { p with tariffQueue := [{ number := 7#16, first := 0, second := none }],
               copyQueues := p.copyQueues.set .A [{ number := 7#16, first := 0, second := none }] })

/-- Module M1 in a state with a timer. -/
def moduleIn (x : ModuleState) (b : Option Berth) : State :=
  linked.modModule 0 fun m => { m with state := x, berth := b, timer := some 9 }

/-- Berth A's Synchroniser running with so many crossings counted, and an outlet crossing just ahead that qualifies. -/
def syncing (count : Nat) : State :=
  let s := ((inStage .synchronising).modSync .A fun y => { y with running := true, count := count }).modInput .ship .A
    fun r => { r with latest := some 1000000#32, period := some 166667#32, valid := true, frequency := some 60000,
                      live := true }
  { s.modInput .outlet .A fun r => { r with frequency := some 60060 } with
    port := { s.port with last := ⟨some { outlet := 11000#16, shipBus := 11000#16, power := 0#32 }, none, none⟩ } }

/-- Berth A's reference running freely at an accumulator and a word. -/
def running (accumulator word : BitVec 32) : State :=
  linked.modReference .A fun r => { r with mode := .free, accumulator := accumulator, word := word }

/-- A flag of the shore link set. -/
def flagged (outstanding : Bool) : State :=
  linked.modLink .shore fun k => { k with flags := flagBit 0, outstanding := outstanding }

/-- Every link DOWN, the shore link with a flag set, berth A in service with its pilot closed. -/
def down : State :=
  ((State.reset.modBerth .A fun r => { r with inService := true }).modSec .A fun c =>
    { c with plugPilot := .closed }).modLink .shore fun k => { k with flags := flagBit 0 }

/-- `linked` with berth A's pilot closed. -/
def plugged : State := linked.modSec .A fun c => { c with plugPilot := .closed }

/-- Berth A in a stage, out of service. -/
def outOfService (g : Stage) : State := (inStage g).modBerth .A fun r => { r with inService := false }

/-- The shore holds berth A and its ship has a request pending since 0. -/
def wanting (g : Stage) : State := (inStage g).modBerth .A fun r => { r with pendingSince := some 0 }

/-- Berth A in ENERGISING under the sync-timeout hold. -/
def onHold (h : Holder) : State :=
  (inStage .energising).modBerth .A fun r => { r with syncHold := true, holder := h }

/-- Berth A in SHORE_CARRYING with a stored ship status. -/
def departing (generators : Nat) : State :=
  (joined .shoreCarrying).modBerth .A fun r =>
    { r with status := some { loadKw := 0, generators := generators, takenAt := 0 } }

/-- Berth A in a stage with its stage timer running. -/
def staged (g : Stage) (e : Nat) : State := (inStage g).modBerth .A fun r => { r with stageTimer := some e }

/-- Berth A TRIPPED by a cause, its emergency-stop loop at a level. -/
def trippedBy (cause : TripCause) (loop : Contact) : State :=
  ((inStage .tripped).modBerth .A fun r => { r with causes := [cause], holder := .nobody }).modSec .A fun c =>
    { c with emergencyStop := loop }

/-- Berth A in a stage with an offer. -/
def offering (g : Stage) : State := (shipHolds g).modUnit .A fun u => { u with offer := some page }

/-- A request page for a voltage. -/
def asked (v : Volt) : PageRequest :=
  { frequency := .hz60, voltage := v, wantedKw := 8000, minimumKw := 4000, preference := .formPreferred,
    more := false }

/-- A pending tariff table, and the harbour clock at a second. -/
def priced (clock : BitVec 32) : State :=
  { linked with
    tariff := { linked.tariff with clock := clock,
                                   pending := some { rates := List.replicate 8 1, charge := 0,
                                                     points := [{ second := 0, band := 1 }] } } }

/-- M1 and M2 on the charge-start list. -/
def listed : State := linked.modPool fun p => { p with chargeList := [0, 1] }

/-- Berth A's ship input with a crossing captured. -/
def captured (stamp : TimeStamp) : State :=
  linked.modInput .ship .A fun r => { r with latest := some stamp, live := true, deadTimer := some 400000 }

/-- A live ship bus at berth A in a stage, its Synchroniser running. -/
def busLive (g : Stage) : State :=
  ((inStage g).modInput .ship .A fun r => { r with live := true, deadTimer := some 400000 }).modSync .A fun y =>
    { y with running := true }

/-- Berth A's reference in a mode. -/
def inMode (m : RefMode) : State := (inStage .synchronising).modReference .A fun r => { r with mode := m }

/-- The sample port awaiting period 5. -/
def awaiting : State := linked.modPort fun p => { p with strobeCount := 5#8, awaited := some 5#8 }

/-- Every slot but one reserved for berth B, berth A at its last crossing before the pulse. -/
def full : State :=
  (syncing 2).modRecords fun p => { p with slots := (Vector.replicate 48 (Slot.reserved .B)).set 0 .free }

/-- Berth A with a close in flight after so many failures, its sync timer running. -/
def closing (failures : Nat) : State :=
  (syncing 0).modSync .A fun y =>
    { y with inFlight := true, closeLine := true, failures := failures, supervision := some 6, syncTimer := some 7 }

/-- Berth A with its sync timer running. -/
def timing (e : Nat) : State := (syncing 0).modSync .A fun y => { y with syncTimer := some e }

/-- Berth A ramping in from a setpoint to a target. -/
def moving (setpoint target : Nat) : State :=
  (joined .rampingIn).modRamp .A fun r =>
    { r with setpoint := setpoint, wanted := target, target := target, rate := 500, state := .moving,
             advance := some 8 }

/-- A link's silence timer running to 5. -/
def silent (l : Link) (s : State) : State := s.modLink l fun k => { k with silence := some 5 }

/-- Berth A in a stage with its open pulse running. -/
def pulsing (g : Stage) : State := (joined g).modSec .A fun c => { c with couplerOpen := some 4 }

/-- Berth A in SYNCHRONISING with a schedule after so many deferrals. -/
def checking (deferrals : Nat) (x : EarthSchedule) : State :=
  (inStage .synchronising).modSec .A fun c => { c with deferrals := deferrals, schedule := x }

/-- Berth A agreed, so many modules READY and the others DARK, at a moment. -/
def stocked (ready now : Nat) : State :=
  { inStage .agreed with
    now := now,
    pool := { ModulePool.reset 0 with
              modules := Vector.ofFn fun i : Fin 12 =>
                if i.val < ready then { Module.reset 0 with state := .ready } else Module.reset 0 } }

/-- A queue whose head asks for so many modules for a berth. -/
def asking (b : Berth) (wanted : Nat) (s : State) : State :=
  s.modPool fun p => { p with queue := [{ berth := b, wanted := wanted, kind := .new, entered := 0 }] }

/-- The terms and the interval of the open connections below. -/
def terms : ConnectionTerms :=
  { frequency := .hz60, voltage := .v11000, agreedKw := 8000, role := .shipForms, pages := [], contract := none,
    connectedAt := 0#32, clockNotSet := true, charge := 5 }

/-- An interval begun at 0. -/
def begun : Interval := { start := 0#32, elapsed := 899, band := 1, rate := 3, marks := Marks.clear, merged := 0 }

/-- Berth A's connection open, with so many records in its copy queue. -/
def metered (copies : Nat) (s : State) : State :=
  (s.modMeter .A fun m => { m with connected := true, terms := some terms, interval := some begun }).modRecords fun p =>
    { p with copyQueues := p.copyQueues.set .A (List.replicate copies { number := 1#16, first := 47, second := none }) }

/-- Slots 2 and 5 reserved for berth A. -/
def reservedA (s : State) : State := setSlot 5 (.reserved .A) (setSlot 2 (.reserved .A) s)

/-- No slot free. -/
def fullPool (s : State) : State := s.modRecords fun p => { p with slots := Vector.replicate 48 (.reserved .B) }

/-- `queued` with slot 0 at a count of 1 and a final record of berth A held. -/
def withHeld : State :=
  ((setSlot 0 (.used 7#16 sample 1) queued).modRecords fun p =>
    { p with held := [{ berth := .A, copyWanted := true }], poolLow := true }).modMeter .A fun m =>
      { m with held := some { berth := .A, contract := none, start := 0#32, length := 0, band := 0, delivered := 0,
                              reverse := 0, charge := 0, demand := 0, marks := Marks.clear, merged := 0 } }

/-- The sample port awaiting period 5 over last values of a power, of an age, after so many missing periods. -/
def portAt (power : BitVec 32) (age missing : Nat) (s : State) : State :=
  s.modPort fun p =>
    { p with strobeCount := 5#8, awaited := some 5#8, missing := missing, age := .same age,
             last := .same (some { outlet := 11000#16, shipBus := 11000#16, power := power }) }

/-- Berth A ramping out from a setpoint at 500 kW/s. -/
def rampingDown (setpoint : Nat) : State :=
  (joined .rampingOut).modRamp .A fun r =>
    { r with setpoint := setpoint, wanted := 0, target := 0, rate := 500, state := .moving, advance := some 8 }

/-- Berth A in SEPARATING with a cause, its open pulse running. -/
def parting : State := (pulsing .separating).modBerth .A fun r => { r with separationCause := some .forced }

/-- Berth A TRIPPED under a 60 Hz agreement, its ship input crossed at 66,666, at a moment. -/
def deadline (now : Nat) : State :=
  { (inStage .tripped).modInput .ship .A fun r => { r with latest := some 66666#32, live := true, deadTimer := some 400000 }
    with now := now }

/-- An import limit of 10,000 kW with so much reserved for berth A, and a waiting list. -/
def budgeted (held : Nat) (waiting : List WaitEntry) : State :=
  { (joined .rampingIn).modSettings fun g => { g with importLimit := 10000 } with
    budget := { reservations := ⟨held, 4000, 0⟩, waiting := waiting, exceeded := false } }

/-- Berth A in a stage: M1 READY, M2 RUNNING and M3 CHARGING for it, M4 on the charge-start list for it, its queue entry. -/
def supplied (g : Stage) : State :=
  ((((((staged g 5).modModule 0 fun m => { m with state := .ready }).modModule 1 fun m =>
    { m with state := .running, berth := some .A }).modModule 2 fun m =>
    { m with state := .charging, berth := some .A, timer := some 9 }).modModule 3 fun m =>
    { m with berth := some .A }).modPool fun p =>
      { p with chargeList := [3], queue := [{ berth := .A, wanted := 1, kind := .replacement, entered := 0 }] }).modBerth .A
        fun r => { r with moduleCount := 1 }

/-- `supplied` with a queue in place of its own, and M1 READY or DARK. -/
def lacking (g : Stage) (queue : List QueueEntry) (x : ModuleState) : State :=
  ((supplied g).modModule 0 fun m => { m with state := x }).modPool fun p => { p with queue := queue }

/-- Berth A's connection open at a boundary, its copy queue full, the oldest copy (slot 0) at its last count or not. -/
def crowded (count : Nat) : State :=
  (setSlot 0 (.used 1#16 sample count) (metered 0 (priced 899#32))).modRecords fun p =>
    { p with copyQueues := p.copyQueues.set .A (
        { number := 1#16, first := 0, second := none } ::
          List.replicate 7 { number := 2#16, first := 47, second := none }) }

/-- Berth A's ramp in a state, with so much wanted, over the budget of `budgeted`. -/
def ramped (x : RampState) (wanted held : Nat) (waiting : List WaitEntry) : State :=
  (budgeted held waiting).modRamp .A fun r => { r with state := x, wanted := wanted, advance := some 8 }

/-- Berth A at setpoint 0, over a last power of an age. -/
def atZero (power : BitVec 32) (age : Nat) (s : State) : State :=
  portAt power age 0 (s.modRamp .A fun r => { r with setpoint := 0 })

/-! Single commands on small states. -/

/-- As `syncing`, with the capture record of the ship bus changed. -/
def shipBus (f : CaptureRecord → CaptureRecord) : State := (syncing 0).modInput .ship .A f

/-- With so many FREE slots, the first ones, the rest reserved for berth B. -/
def withFree (n : Nat) (s : State) : State :=
  s.modRecords fun p => { p with slots := Vector.ofFn fun i => if i.val < n then .free else .reserved .B }

theorem test_commands_answer_next :
    (∃ t, exec (.requestPage (.ship .A) [1#8, 1#8, 0x1F#8, 0x40#8, 0x0F#8, 0xA0#8, 1#8, 0#8])
        ((freeStage .negotiating).modUnit .A fun u => { u with offer := some page }) = .next t ∧
      (t.berth .A).stage = .agreed ∧ ((t.berth .A).agreement.map Agreement.agreedKw) = some 8000 ∧
      ((t.berth .A).agreement.map Agreement.role) = some .shipForms) := by
  exact ⟨_, rfl, by decide +kernel, by decide +kernel, by decide +kernel⟩

theorem test_record_layouts :
    (intervalLayout 7#16
        { berth := .A, contract := none, start := 0#32, length := 900, band := 1, delivered := 750012, reverse := 0,
          charge := 0, demand := 3000, marks := Marks.clear, merged := 0 }).length = 50 := by
  decide +kernel

theorem test_syncing_qualifies : (compute .A 1001852#32 (syncing 0)).verdict = .qualifying := by decide +kernel

theorem test_third_crossing_drives_the_pulse :
    ((outletCrossing .A 1001852#32 (syncing 2)).sync .A).closeLine = true ∧
      (outletCrossing .A 1001852#32 (syncing 2)).records.reservedSlots .A = [0, 1] := by decide +kernel

theorem test_reset_with_the_loop_open :
    ∃ t, exec .resetLine (State.reset.modSec .B fun c => { c with emergencyStop := .opened }) = .next t ∧
      (t.berth .B).stage = .tripped ∧ (t.berth .B).causes = [.emergencyStop] ∧ (t.berth .A).stage = .vacant :=
  ⟨_, rfl, by decide +kernel, by decide +kernel, by decide +kernel⟩

theorem test_plant_reset_keeps_the_capture_records :
    ∃ t, exec (.plantReset .shore []) (deadline 399999) = .next t ∧ t.capture = (deadline 399999).capture ∧
      (t.berth .A).agreement = none := by
  exact ⟨_, rfl, by decide +kernel, by decide +kernel⟩

theorem test_dead_timer_follows_the_agreement :
    ((setAgreement .A none (deadline 466665)).input .ship .A).deadTimer = some 466666 ∧
      (setAgreement .A none (deadline 466666)).input .ship .A = CaptureRecord.reset := by decide +kernel

theorem test_release_frees_the_slot :
    ∃ t, exec (.releaseRecord .tariff [0#8, 7#8])
        (setSlot 0 (.used 7#16 sample 1) queued) = .next t ∧ t.records.slots.get 0 = .free ∧
      t.records.tariffQueue = [] :=
  ⟨_, rfl, by decide +kernel, by decide +kernel⟩

theorem test_idle_ticks :
    ∃ t, step State.reset = .next t ∧ t.now = 1 ∧ dueEvents State.reset = [] :=
  ⟨_, rfl, by decide +kernel, by decide +kernel⟩

theorem test_whole_grant :
    ∃ t, exec (.connect .shore [0#8]) (stocked 4 0) = .next t ∧ (t.berth .A).moduleCount = 4 ∧ t.pool.queue = [] ∧
      (t.sec .A).supervision = .closing 3000000 ∧ (t.berth .A).stageTimer = none :=
  ⟨_, rfl, by decide +kernel, by decide +kernel, by decide +kernel, by decide +kernel⟩

theorem test_edge_after_the_dead_time_finds_the_input_dead :
    ∃ t, exec (.zeroCrossing .ship .A 400001#32) (captured 0#32) = .next t ∧ (t.input .ship .A).period = none ∧
      (t.input .ship .A).latest = some 400001#32 :=
  ⟨_, rfl, by decide +kernel, by decide +kernel⟩

theorem test_edge_at_the_dead_time_is_a_period :
    ∃ t, exec (.zeroCrossing .ship .A 400000#32) (captured 0#32) = .next t ∧
      (t.input .ship .A).period = some 400000#32 :=
  ⟨_, rfl, by decide +kernel⟩

theorem test_passing_time_sends_the_crossings :
    (advance 5 (running 4294967295#32 1073741824#32)).sent =
        [.reference .A .free 1073741824#32] ∧
      ((advance 5 (running 4294967295#32 1073741824#32)).reference .A).owed = 1 := by
  decide +kernel

theorem test_bus_frame_octets :
    (busFrameOctets 5#8 (.same { outlet := 11000#16, shipBus := 10999#16, power := 0xFFFFFFFF#32 })).take 3 =
        [5#8, 0x2A#8, 0xF8#8] ∧
      busFrameGood (busFrameOctets 5#8 (.same { outlet := 11000#16, shipBus := 10999#16, power := 0xFFFFFFFF#32 })) =
        true := by
  decide +kernel

theorem test_late_report_after_the_close_timeout :
    ∃ t, exec (.outletCloseTimeout .A) ((inStage .allocating).modSec .A fun c =>
        { c with outletCommand := .closed, supervision := .closing 5 }) = .next t ∧
      (t.sec .A).supervision = .opening 2000005 ∧
      ∃ u, exec (.outletAuxChange .A .closed) t = .next u ∧ (u.berth .A).causes = [.outletBreaker] ∧
        (u.sec .A).supervision = .opening 2000005 :=
  ⟨_, rfl, by decide +kernel, _, rfl, by decide +kernel, by decide +kernel⟩

theorem test_angles_come_back_by_whole_turns : wrapAngle (40 - -8100) = 940 ∧ wrapAngle 1800 = -1800 := by
  decide +kernel

/-! For each statement: states that meet the hypotheses of its clauses. -/

theorem witness_idle :
    State.reset.pending = [] ∧
    ({ State.reset with resetHeld := true } : State).resetHeld = true ∧
    dueEvents State.reset = [] ∧
    dueEvents { State.reset with now := 100000 } ≠ [] ∧
    (State.reset.reference .A).mode = .stopped ∧
    ((running 4294967295#32 1#32).reference .A).mode ≠ .stopped ∧
    dueEvents (running 4294967295#32 1#32) = [] ∧
    dueEvents (running 4294967294#32 1#32) = [] ∧
    (running 4294967295#32 1#32).pending = [] := by
  decide +kernel

theorem witness_resetHeld :
    ({ State.reset with resetHeld := true } : State).resetHeld = true ∧
    actsWhileHeld .sampleStrobe = false := by
  decide +kernel

theorem witness_screening :
    linked.hears .shore ∧
    requestOf .shore 0x05#8 [] = some (.shipStatus .shore []) ∧
    payloadLength 0x05 .shore = none ∧
    requestOf .shore 0x23#8 [0#8] = some (.keepAlive .shore [0#8]) ∧
    payloadLength 0x23 .shore = some 0 ∧
    requestOf .shore 0x01#8 [3#8] = some (.berthEnable .shore [3#8]) ∧
    addressed 0x01 = true ∧
    payloadLength 0x01 .shore = some 1 ∧
    speaksFor .shore .A ∧
    [0x0B, 0x0C, 0x0D, 0x0E, 0x0F, 0x10].contains 0x0B = true ∧
    requestOf .shore 0x0B#8 (berthField .shore .A ++ []) = some (.connect .shore [0#8]) ∧
    payloadLength 0x0B .shore = some (berthField .shore .A ++ []).length ∧
    State.hears (linked.modBerth .A fun r => { r with inService := false }) .shore ∧
    ((linked.modBerth .A fun r => { r with inService := false }).berth .A).inService = false ∧
    (linked.berth .A).inService = true ∧ (linked.berth .A).accepts 0x0B = false ∧
    (shipHolds .agreed).hears .shore ∧
    ((shipHolds .agreed).berth .A).inService = true ∧ ((shipHolds .agreed).berth .A).accepts 0x0B = true ∧
    ((shipHolds .agreed).berth .A).holder ≠ requester .shore := by
  simp only [State.commands, State.asks, State.hears, State.quiet, State.exceededHonest, speaksFor]
  decide +kernel

theorem witness_reads :
    linked.hears .shore ∧
    linked.hears (.ship .A) ∧
    linked.hears .tariff ∧
    speaksFor .shore .A ∧
    speaksFor (.ship .A) .A ∧
    ((inStage .agreed).berth .A).stage ≠ .vacant ∧
    (inStage .agreed).hears .shore ∧
    (linked.berth .A).stage = .vacant := by
  simp only [State.commands, State.asks, State.hears, State.quiet, State.exceededHonest, speaksFor]
  decide +kernel

theorem witness_notices :
    (flagged false).hears .shore ∧
    (flagged true).hears .shore ∧
    linked.hears .shore ∧
    ((flagged false).links.get .shore).flags &&& (0xFFFFFFFFFFFFFFFF#64 &&& Links.carried .shore) ≠ 0#64 ∧
    ((flagged false).links.get .shore).outstanding = false ∧
    ((flagged true).links.get .shore).outstanding = true ∧
    (linked.links.get .shore).flags &&& (0xFFFFFFFFFFFFFFFF#64 &&& Links.carried .shore) = 0#64 ∧
    flagSet ((flagged false).links.get .shore).flags 0 = true ∧
    flagSet (linked.links.get .shore).flags 63 = false ∧
    flagSet (linked.links.get .shore).mask 38 = true ∧ (linked.links.get .shore).outstanding = false ∧ (linked.links.get .shore).up = true ∧
    flagSet (linked.links.get .shore).mask 39 = false := by
  simp only [State.commands, State.asks, State.hears, State.quiet, State.exceededHonest, speaksFor]
  decide +kernel

theorem witness_otherFrames :
    linked.hears .shore ∧
    knownCode 0x29#8 = false ∧
    knownCode 0#8 = false ∧
    linked.quiet ∧
    (linked.links.get .shore).rx = [] ∧
    parseFrame [1#8, 0#8] = .bad ∧
    0xA5#8 ∉ [1#8, 0#8] ∧
    parseFrame ([1#8] ++ frameOctets 0#8 0x23#8 []) = .bad ∧
    (List.replicate 120 0#8).length ≤ 120 := by
  simp only [State.commands, State.asks, State.hears, State.quiet, State.exceededHonest, speaksFor]
  decide +kernel

theorem witness_linkUp :
    State.reset.quiet ∧
    (State.reset.links.get (.ship .A)).up = false ∧
    (down.links.get (.ship .A)).up = false ∧
    down.quiet ∧
    (down.berth .A).stage = .vacant ∧ (down.berth .A).inService = true ∧ (down.sec .A).plugPilot = .closed ∧
    ¬ ((State.reset.berth .A).stage = .vacant ∧ (State.reset.berth .A).inService = true ∧ (State.reset.sec .A).plugPilot = .closed) ∧
    (down.links.get .shore).up = false ∧
    (down.links.get .shore).flags &&& (down.links.get .shore).mask ≠ 0#64 ∧ (down.links.get .shore).outstanding = false := by
  simp only [State.commands, State.asks, State.hears, State.quiet, State.exceededHonest, speaksFor]
  decide +kernel

theorem witness_enableDisable :
    linked.hears .shore ∧
    plugged.hears .shore ∧
    (plugged.berth .A).stage = .vacant ∧ (plugged.berth .A).linkLost = false ∧ (plugged.sec .A).plugPilot = .closed ∧
    (linked.berth .A).inService = true ∧ (linked.sec .A).plugPilot = .opened ∧
    ((inStage .negotiating).berth .A).stage.mayDisable = true ∧ (inStage .negotiating).hears .shore ∧
    ((inStage .agreed).berth .A).stage.mayDisable = true ∧
    ((inStage .tripped).berth .A).stage.mayDisable = true ∧
    (linked.berth .A).stage.mayDisable = true ∧
    ((inStage .allocating).berth .A).stage.mayDisable = false ∧
    ((inStage .releasing).berth .A).stage.mayDisable = false ∧
    ((outOfService .tripped).berth .A).stage = .tripped ∧ ((outOfService .tripped).berth .A).inService = false ∧ (outOfService .tripped).causePresent .A = false ∧
    (outOfService .tripped).hears .shore := by
  simp only [State.commands, State.asks, State.hears, State.quiet, State.exceededHonest, speaksFor]
  decide +kernel

theorem witness_shipStatus :
    (inStage .rampingIn).asks (.ship .A) .A ∧
    ((inStage .rampingIn).berth .A).stage ≠ .vacant ∧
    8 < (9#8 : Byte).toNat ∧ (8#8 : Byte).toNat ≤ 8 ∧ (0#8 : Byte).toNat = 0 ∧
    ((inStage .rampingIn).berth .A).stage = .rampingIn ∧
    (inStage .tripped).asks (.ship .A) .A ∧ ((inStage .tripped).berth .A).stage ≠ .rampingIn := by
  simp only [State.commands, State.asks, State.hears, State.quiet, State.exceededHonest, speaksFor]
  decide +kernel

theorem witness_authority :
    (freeStage .agreed).asks .shore .A ∧
    (freeStage .agreed).asks (.ship .A) .A ∧
    ((freeStage .agreed).berth .A).stage.hasAuthority = true ∧ ((freeStage .agreed).berth .A).holder = .nobody ∧
    ((inStage .agreed).berth .A).holder = requester .shore ∧ (inStage .agreed).asks .shore .A ∧
    ((inStage .agreed).berth .A).holder = .shore ∧ ((inStage .agreed).berth .A).pendingSince = none ∧ (inStage .agreed).asks (.ship .A) .A ∧
    ((wanting .releasing).berth .A).holder = .shore ∧ ((wanting .releasing).berth .A).pendingSince ≠ none ∧ (wanting .releasing).asks (.ship .A) .A ∧
    ((shipHolds .agreed).berth .A).holder = .ship ∧ (shipHolds .agreed).asks .shore .A ∧
    ((wanting .releasing).berth .A).stage.hasAuthority = true ∧ (wanting .releasing).asks .shore .A ∧
    ((wanting .releasing).berth .A).pendingSince = some 0 ∧ (wanting .releasing).quiet ∧
    ((inStage .agreed).berth .A).holder ≠ .ship ∧ ((inStage .agreed).berth .A).pendingSince = none := by
  simp only [State.commands, State.asks, State.hears, State.quiet, State.exceededHonest, speaksFor]
  decide +kernel

theorem witness_release :
    (wanting .agreed).asks .shore .A ∧ ((wanting .agreed).berth .A).holder = requester .shore ∧ ((wanting .agreed).berth .A).pendingSince ≠ none ∧
    (inStage .agreed).asks .shore .A ∧ ((inStage .agreed).berth .A).holder = requester .shore ∧ ((inStage .agreed).berth .A).pendingSince = none ∧
    (wanting .agreed).asks (.ship .A) .A ∧ ((wanting .agreed).berth .A).holder ≠ requester (.ship .A) ∧
    (shipHolds .agreed).asks .shore .A ∧ ((shipHolds .agreed).berth .A).holder ≠ requester .shore ∧
    (inStage .agreed).asks (.ship .A) .A ∧ ((inStage .agreed).berth .A).holder ≠ requester (.ship .A) := by
  simp only [State.commands, State.asks, State.hears, State.quiet, State.exceededHonest, speaksFor]
  decide +kernel

theorem witness_connect :
    (inStage .agreed).commands .shore .A ∧
    (shipHolds .agreed).commands (.ship .A) .A ∧
    ((inStage .agreed).berth .A).stage = .agreed ∧
    (inStage .agreed).pool.queue = [] ∧ (inStage .agreed).readyModules = [] ∧ (inStage .agreed).eligibleModules = [] ∧
    0 < (inStage .agreed).agreedKw .A ∧ 0 < (inStage .agreed).settings.rating ∧
    (onHold .shore).commands .shore .A ∧ ((onHold .shore).berth .A).stage = .energising ∧ ((onHold .shore).berth .A).syncHold = true := by
  simp only [State.commands, State.asks, State.hears, State.quiet, State.exceededHonest, speaksFor]
  decide +kernel

theorem witness_ramp :
    (joined .parallel).commands .shore .A ∧ ((joined .parallel).berth .A).stage.mayStep = true ∧
    (joined .rampingIn).commands .shore .A ∧ ((joined .rampingIn).berth .A).stage.mayStep = true ∧
    (((joined .rampingIn).modUnit .A fun u => { u with offer := some page }).unit .A).offer = some page ∧
    0 < ((joined .shoreCarrying).ramp .A).setpoint ∧
    (departing 1).commands .shore .A ∧ ((departing 1).berth .A).mayDepart = true ∧
    ((departing 1).berth .A).agreement ≠ none ∧
    ((joined .parallel).berth .A).stage = .parallel ∧
    (joined .rampingOut).commands .shore .A ∧ ((joined .rampingOut).berth .A).stage = .rampingOut := by
  simp only [State.commands, State.asks, State.hears, State.quiet, State.exceededHonest, speaksFor]
  decide +kernel

theorem witness_bringDown :
    (inStage .allocating).commands .shore .A ∧
    (inStage .energising).commands .shore .A ∧
    (syncing 0).commands .shore .A ∧ ((syncing 0).berth .A).stage = .synchronising ∧ ((syncing 0).sync .A).inFlight = false ∧
    (closing 0).commands .shore .A ∧ ((closing 0).berth .A).stage = .synchronising ∧ ((closing 0).sync .A).inFlight = true ∧
    (staged .allocating 5).quiet ∧ ((staged .allocating 5).berth .A).stage = .allocating ∧ ((staged .allocating 5).berth .A).stageTimer = some 5 := by
  simp only [State.commands, State.asks, State.hears, State.quiet, State.exceededHonest, speaksFor]
  decide +kernel

theorem witness_forceSeparate :
    (joined .shoreCarrying).commands .shore .A ∧ ((joined .shoreCarrying).berth .A).stage.mayForce = true ∧ ((joined .shoreCarrying).sec .A).couplerAux = .closed ∧
    ((joined .parallel).berth .A).stage.mayForce = true ∧
    ((joined .rampingOut).berth .A).stage.mayForce = true := by
  simp only [State.commands, State.asks, State.hears, State.quiet, State.exceededHonest, speaksFor]
  decide +kernel

theorem witness_clearTrip :
    (trippedBy .emergencyStop .opened).hears .shore ∧ ((trippedBy .emergencyStop .opened).berth .A).stage = .tripped ∧
    (.emergencyStop ∈ ((trippedBy .emergencyStop .opened).berth .A).causes ∧ ((trippedBy .emergencyStop .opened).sec .A).emergencyStop = .opened) ∧
    ((trippedBy .overload .opened).berth .A).causes = [.overload] ∧
    ((trippedBy .overload .opened).sec .A).outletAux = .opened ∧ ((trippedBy .overload .opened).sec .A).couplerAux = .opened ∧ ((trippedBy .overload .opened).sec .A).supervision = .idle ∧
    ((trippedBy .overload .opened).berth .A).inService = true ∧ ((trippedBy .overload .opened).berth .A).linkLost = false ∧ ((trippedBy .overload .opened).berth .A).agreement ≠ none ∧
    ((outOfService .tripped).berth .A).inService = false ∧
    ((plugged.modBerth .A fun r => { r with stage := .tripped }).berth .A).agreement = none := by
  simp only [State.commands, State.asks, State.hears, State.quiet, State.exceededHonest, speaksFor]
  decide +kernel

theorem witness_resolution :
    OfferedFreqs.has .only50 .hz60 = false ∧
    OfferedFreqs.has .both .hz60 = true ∧ Volt.v6600 ≠ page.voltage ∧
    min 12001 page.kw < 12001 ∧ min 12000 page.kw ≥ 12000 ∧
    roleOf .followOnly .followOnly = none ∧ roleOf .followOnly .formOnly = some .shoreForms := by
  decide +kernel

theorem witness_requestPage :
    (offering .negotiating).asks (.ship .A) .A ∧ ((offering .negotiating).berth .A).stage.mayNegotiate = true ∧ ((offering .negotiating).unit .A).offer = some page ∧
    (offering .agreed).asks (.ship .A) .A ∧ ((offering .agreed).berth .A).stage.mayNegotiate = true ∧
    (resolve page (asked .v6600)).1 ≠ .compatible ∧
    (resolve page (asked .v11000)).1 = .compatible := by
  simp only [State.commands, State.asks, State.hears, State.quiet, State.exceededHonest, speaksFor]
  decide +kernel

theorem witness_continuation :
    (collecting (some false) 1).asks (.ship .A) .A ∧ ((collecting (some false) 1).berth .A).stage = .negotiating ∧ ((collecting (some false) 1).unit .A).phase = .collecting ∧
    ((collecting (some false) 1).unit .A).lastMark = some false ∧ ((collecting (some false) 1).unit .A).lastReply = some { mark := false } ∧
    (collecting none 0).asks (.ship .A) .A ∧ ((collecting none 0).unit .A).lastMark = none ∧
    (collecting (some true) 4).asks (.ship .A) .A ∧ ((collecting (some true) 4).unit .A).lastMark ≠ some false ∧ 4 ≤ ((collecting (some true) 4).unit .A).pages.length ∧
    ((collecting (some true) 3).unit .A).pages.length < 4 ∧
    (collecting (some true) 3).quiet ∧ ((collecting (some true) 3).unit .A).pageWait = some 5 ∧ ((collecting (some true) 3).unit .A).terms ≠ none ∧
    (linked.unit .A).phase ≠ .collecting := by
  simp only [State.commands, State.asks, State.hears, State.quiet, State.exceededHonest, speaksFor]
  decide +kernel

theorem witness_setClock :
    linked.hears .shore ∧ linked.tariff.pending = none ∧
    (priced 0).hears .shore ∧ (priced 0).tariff.pending ≠ none := by
  simp only [State.commands, State.asks, State.hears, State.quiet, State.exceededHonest, speaksFor]
  decide +kernel

theorem witness_settings :
    (inStage .negotiating).hears .shore ∧ ((inStage .negotiating).berth .A).stage ≠ .vacant ∧
    linked.hears .shore ∧ (linked.berth .A).stage = .vacant ∧
    allBerths.all (fun b => decide ((linked.berth b).stage = .vacant)) = true ∧
    allModules.all (fun m => decide ((linked.module m).state = .dark)) = true ∧
    (3600#16 : BitVec 16).toNat ∈ [300, 600, 900, 1800, 3600] ∧ (3601#16 : BitVec 16).toNat ∉ [300, 600, 900, 1800, 3600] ∧
    ((moduleIn .charging none).module 0).state = .charging ∧ (moduleIn .charging none).hears .shore := by
  simp only [State.commands, State.asks, State.hears, State.quiet, State.exceededHonest, speaksFor]
  decide +kernel

theorem witness_plantReset :
    (inStage .negotiating).hears .shore ∧ ((inStage .negotiating).berth .A).stage.resettable = false ∧
    (inStage .agreed).hears .shore ∧ allBerths.all (fun b => ((inStage .agreed).berth b).stage.resettable) = true ∧
    ((inStage .agreed).sec .A).emergencyStop = .closed ∧ ((inStage .agreed).sec .A).outletAux = .opened ∧
    ((inStage .tripped).berth .A).stage ≠ .agreed ∧ allBerths.all (fun b => ((inStage .tripped).berth b).stage.resettable) = true ∧
    ((trippedBy .overload .opened).sec .A).emergencyStop = .opened ∧ allBerths.all (fun b => ((trippedBy .overload .opened).berth b).stage.resettable) = true := by
  simp only [State.commands, State.asks, State.hears, State.quiet, State.exceededHonest, speaksFor]
  decide +kernel

theorem witness_loadTariff :
    linked.hears .tariff ∧ linked.hears .shore ∧
    (List.replicate 8 0#16 : List (BitVec 16)).length = 8 ∧
    5 * [(86399#32, 8#8)].length + (List.replicate 55 0#8).length = 60 ∧ [(86399#32, 8#8)].length = min 12 (1#8 : Byte).toNat ∧
    (List.replicate 12 (0#32, 1#8)).length = min 12 (13#8 : Byte).toNat := by
  simp only [State.commands, State.asks, State.hears, State.quiet, State.exceededHonest, speaksFor]
  decide +kernel

theorem witness_releases :
    queued.hears .tariff ∧ queued.hears (.ship .A) ∧
    queued.records.tariffQueue = [{ number := 7#16, first := 0, second := none }] ∧ queued.records.held = [] ∧
    queued.records.copyQueues.get .A = [{ number := 7#16, first := 0, second := none }] ∧
    queued.records.slots.get 0 = .used 7#16 sample 2 ∧
    linked.hears (.ship .A) ∧ linked.records.copyQueues.get .A = [] ∧ linked.records.tariffQueue = [] := by
  simp only [State.commands, State.asks, State.hears, State.quiet, State.exceededHonest, speaksFor]
  decide +kernel

theorem witness_moduleFaults :
    (moduleIn .faulted none).hears .shore ∧ ((moduleIn .faulted none).module 0).state = .faulted ∧
    (0#8 : Byte).toNat = 0 ∧ 12 < (13#8 : Byte).toNat ∧ (11 : ModuleId).val + 1 = (12#8 : Byte).toNat ∧
    linked.hears .shore ∧ (linked.module 0).state ≠ .faulted ∧
    (moduleIn .faulted none).pool.queue = [] ∧ (moduleIn .faulted none).pool.chargeList = [] ∧
    (moduleIn .charging (some .A)).quiet ∧ ((moduleIn .charging (some .A)).module 0).state = .charging ∧ ((moduleIn .charging (some .A)).module 0).timer = some 9 ∧
    (moduleIn .running (some .A)).quiet ∧ ((moduleIn .running (some .A)).module 0).state = .running ∧ ((moduleIn .running (some .A)).module 0).berth = some .A ∧ (moduleIn .running (some .A)).readyModules = [] ∧
    (linked.module 0).state = .dark ∧ (linked.module 0).berth = none := by
  simp only [State.commands, State.asks, State.hears, State.quiet, State.exceededHonest, speaksFor]
  decide +kernel

theorem witness_chargeStarts :
    linked.quiet ∧ linked.pool.chargeList = [] ∧
    (listed.pool.chargeList = [0, 1]) ∧ listed.quiet ∧ chargeStartDue listed = some 600000000 ∧
    max listed.now 600000000 / 10000 < 2 ^ 48 ∧
    cycleDue 0 linked = some 600000000 ∧ linked.pool.queue = [] := by
  simp only [State.commands, State.asks, State.hears, State.quiet, State.exceededHonest, speaksFor]
  decide +kernel

theorem witness_modules :
    (moduleIn .ready none).quiet ∧ ((moduleIn .ready none).module 0).state = .ready ∧ ((moduleIn .ready none).module 0).timer = some 9 ∧
    (moduleIn .draining none).quiet ∧ ((moduleIn .draining none).module 0).state = .draining ∧
    (moduleIn .charging none).quiet ∧ ((moduleIn .charging none).module 0).berth = none ∧
    ((moduleIn .charging (some .B)).module 0).berth = some .B ∧
    (moduleIn .draining none).pool.queue = [] ∧ (moduleIn .draining none).pool.chargeList = [] := by
  simp only [State.commands, State.asks, State.hears, State.quiet, State.exceededHonest, speaksFor]
  decide +kernel

theorem witness_references :
    (running 4294967295#32 1#32).quiet ∧ crossingDue .A (running 4294967295#32 1#32) = some 1 ∧
    ((running 4294967295#32 1#32).reference .A).owed = 0 ∧
    linked.quiet ∧ (linked.reference .A).mode = .stopped := by
  simp only [State.commands, State.asks, State.hears, State.quiet, State.exceededHonest, speaksFor]
  decide +kernel

theorem witness_crossings :
    linked.quiet ∧ (linked.input .ship .A).latest = none ∧
    (captured 0#32).quiet ∧ ((captured 0#32).input .ship .A).latest = some 0#32 ∧
    (9999#32 - 0#32 : BitVec 32).toNat < 10000 ∧ 10000 ≤ (10000#32 - 0#32 : BitVec 32).toNat ∧
    ((captured 0#32).input .ship .A).deadTimer = some 400000 ∧
    periodValid 140000#32 = true ∧ periodValid 139999#32 = false := by
  simp only [State.commands, State.asks, State.hears, State.quiet, State.exceededHonest, speaksFor]
  decide +kernel

theorem witness_deadBus :
    ((busLive .shoreCarrying).input .ship .A).deadTimer = some 400000 ∧ (busLive .shoreCarrying).quiet ∧
    ((busLive .shoreCarrying).berth .A).stage.noticesDeadBus = true ∧
    ((busLive .synchronising).sync .A).running = true := by
  simp only [State.commands, State.asks, State.hears, State.quiet, State.exceededHonest, speaksFor]
  decide +kernel

theorem witness_trimAndFollow :
    ((inMode .trim).reference .A).mode = .trim ∧
    ((inMode .follow).reference .A).mode = .follow ∧
    ((inMode .free).reference .A).mode = .free := by
  decide +kernel

theorem witness_strobe :
    linked.quiet ∧ linked.port.awaited = none ∧
    awaiting.quiet ∧ awaiting.port.awaited ≠ none ∧ awaiting.port.taken = false ∧
    awaiting.port.awaited = some 5#8 ∧ awaiting.port.awaited ≠ some 4#8 ∧
    (awaiting.modPort fun p => { p with taken := true }).port.taken = true := by
  simp only [State.commands, State.asks, State.hears, State.quiet, State.exceededHonest, speaksFor]
  decide +kernel

theorem witness_judging :
    (0 : Nat) < 166667 ∧ 166666 < 166667 ∧
    judgeCrossing true false BerthSettings.default .v11000 .hz60 10 50 550 58800 = .closeInFlight ∧
    judgeCrossing false false BerthSettings.default .v11000 .hz60 9 50 550 58800 = .slipLow ∧
    judgeCrossing false false BerthSettings.default .v11000 .hz60 151 50 550 58800 = .slipHigh ∧
    judgeCrossing false false BerthSettings.default .v11000 .hz60 150 (-51) 550 58800 = .angle ∧
    judgeCrossing false false BerthSettings.default .v11000 .hz60 150 50 551 58800 = .voltage ∧
    judgeCrossing false false BerthSettings.default .v11000 .hz60 150 50 550 58799 = .shipFrequency ∧
    judgeCrossing false false BerthSettings.default .v11000 .hz60 150 50 550 61200 = .qualifying ∧
    judgeCrossing false true BerthSettings.default .v11000 .hz60 10 50 550 58800 = .earthCheck := by
  decide +kernel

theorem witness_closePulse :
    ((syncing 0).sync .A).running = true ∧
    (compute .A 0#32 (syncing 0)).verdict ≠ .qualifying ∧
    (compute .A 1001852#32 (syncing 1)).verdict = .qualifying ∧ ((syncing 1).sync .A).count + 1 < ((syncing 1).setting .A).qualifyCount ∧
    ((syncing 2).setting .A).qualifyCount ≤ ((syncing 2).sync .A).count + 1 ∧ ((syncing 2).sec .A).couplerAux = .opened ∧ 2 ≤ (syncing 2).records.freeSlotCount ∧
    (compute .A 1001852#32 ((syncing 2).modSec .A fun c => { c with couplerAux := .closed })).verdict = .qualifying ∧
    full.records.freeSlotCount < 2 ∧ full.records.reservedSlots .A = [] ∧ (full.sec .A).couplerAux = .opened ∧ (full.sync .A).running = true ∧
    (compute .A 1001852#32 full).verdict = .qualifying ∧ (full.setting .A).qualifyCount ≤ (full.sync .A).count + 1 := by
  decide +kernel

theorem witness_syncEnds :
    (closing 0).quiet ∧ ((closing 0).sync .A).syncTimer = some 7 ∧ ((closing 0).sync .A).inFlight = true ∧
    (timing 7).quiet ∧ ((timing 7).sync .A).syncTimer = some 7 ∧ ((timing 7).sync .A).inFlight = false ∧
    ((closing 1).berth .A).stage = .synchronising ∧ ((closing 1).sync .A).supervision = some 6 ∧ ((closing 1).sync .A).failures < 2 ∧ ((closing 1).sync .A).heldTimeout = false ∧
    (((closing 1).modSync .A fun y => { y with heldTimeout := true }).sync .A).heldTimeout = true ∧
    2 ≤ ((closing 2).sync .A).failures ∧ (closing 2).quiet ∧
    (linked.sync .A).syncTimer = none := by
  simp only [State.commands, State.asks, State.hears, State.quiet, State.exceededHonest, speaksFor]
  decide +kernel

theorem witness_ramping :
    (moving 4000 6000).quiet ∧ ((moving 4000 6000).ramp .A).state = .moving ∧ ((moving 4000 6000).ramp .A).advance = some 8 ∧ ((moving 4000 6000).ramp .A).suspended = false ∧
    ((moving 4000 6000).berth .A).stage = .rampingIn ∧ ((moving 4000 6000).ramp .A).setpoint ≤ ((moving 4000 6000).ramp .A).target ∧
    ((moving 4000 2000).ramp .A).target ≤ ((moving 4000 2000).ramp .A).setpoint ∧
    (((moving 4000 6000).modRamp .A fun r => { r with suspended := true }).ramp .A).suspended = true ∧
    ((joined .rampingIn).ramp .A).state ≠ .moving ∧
    (((joined .rampingOut).modRamp .A fun r => { r with separationWait := some 3 }).ramp .A).separationWait = some 3 ∧ ((joined .rampingOut).berth .A).stage = .rampingOut := by
  simp only [State.commands, State.asks, State.hears, State.quiet, State.exceededHonest, speaksFor]
  decide +kernel

theorem witness_trips :
    (staged .energising 5).quiet ∧ ((staged .energising 5).berth .A).stageTimer = some 5 ∧ ((staged .energising 5).berth .A).stage = .energising ∧
    (((joined .shoreCarrying).modSec .A fun c => { c with overloadTimer := some 5 }).sec .A).overloadTimer = some 5 ∧ (joined .shoreCarrying).quiet ∧
    (((inStage .allocating).modSec .A fun c => { c with supervision := .closing 5 }).sec .A).supervision = .closing 5 ∧
    (((inStage .releasing).modSec .A fun c => { c with supervision := .opening 5 }).sec .A).supervision = .opening 5 ∧
    (((joined .parallel).modSec .A fun c => { c with graceTimer := some 5 }).sec .A).graceTimer = some 5 ∧
    (((joined .parallel).modSec .A fun c => { c with schedule := .running 5 true, earthResult := .failed }).sec .A).earthResult = .failed ∧
    ((joined .parallel).sec .A).emergencyStop = .closed ∧ ((joined .parallel).berth .A).stage ≠ .tripped ∧
    ((trippedBy .overload .opened).berth .A).stage = .tripped ∧ TripCause.overload ∈ ((trippedBy .overload .opened).berth .A).causes ∧ TripCause.earthPath ∉ ((trippedBy .overload .opened).berth .A).causes := by
  simp only [State.commands, State.asks, State.hears, State.quiet, State.exceededHonest, speaksFor]
  decide +kernel

theorem witness_linkLoss :
    (silent .shore (wanting .agreed)).quiet ∧ ((silent .shore (wanting .agreed)).links.get .shore).up = true ∧ ((silent .shore (wanting .agreed)).links.get .shore).silence = some 5 ∧
    ((wanting .agreed).berth .A).holder = .shore ∧ ((wanting .agreed).berth .A).pendingSince ≠ none ∧
    ((inStage .agreed).berth .A).holder = .shore ∧ ((inStage .agreed).berth .A).pendingSince = none ∧ ((inStage .agreed).berth .B).holder ≠ .shore ∧
    (silent .tariff linked).quiet ∧ ((silent .tariff linked).links.get .tariff).silence = some 5 ∧
    (silent (.ship .A) (joined .parallel)).quiet ∧ ((silent (.ship .A) (joined .parallel)).links.get (.ship .A)).silence = some 5 ∧
    ((joined .parallel).berth .A).stage = .parallel ∧ ((inStage .agreed).berth .A).stage = .agreed ∧ ((inStage .allocating).berth .A).stage = .allocating ∧ ((joined .shoreCarrying).berth .A).stage = .shoreCarrying := by
  simp only [State.commands, State.asks, State.hears, State.quiet, State.exceededHonest, speaksFor]
  decide +kernel

theorem witness_lines :
    linked.quiet ∧ (linked.sec .A).earthResult ≠ .failed ∧ (linked.sec .A).flags.earthResult = false ∧
    ((linked.modSec .A fun c => { c with flags := { c.flags with earthResult := true } }).sec .A).flags.earthResult = true ∧
    ((trippedBy .overload .opened).sec .A).emergencyStop = .opened ∧ ((trippedBy .overload .opened).sec .A).flags.emergencyStop = false ∧
    (plugged.sec .A).plugPilot = .closed ∧ plugged.quiet ∧ (plugged.berth .A).stage = .vacant ∧
    ((joined .parallel).sec .A).plugPilot = .closed ∧ (joined .parallel).quiet ∧
    ((inStage .agreed).sec .A).plugPilot = .opened ∧ (inStage .agreed).quiet := by
  simp only [State.commands, State.asks, State.hears, State.quiet, State.exceededHonest, speaksFor]
  decide +kernel

theorem witness_outlet :
    (((inStage .allocating).modSec .A fun c => { c with outletCommand := .closed, supervision := .closing 5 }).sec .A).outletAux = .opened ∧
    ((inStage .allocating).berth .A).stage = .allocating ∧ (inStage .allocating).quiet ∧
    (((joined .releasing).modSec .A fun c => { c with supervision := .opening 5 }).sec .A).outletAux = .closed ∧ ((joined .releasing).berth .A).moduleCount = 0 ∧ ((joined .releasing).berth .A).linkLost = false ∧
    ((joined .parallel).sec .A).supervision = .idle ∧ ((joined .parallel).sec .A).outletCommand = .closed ∧ ((joined .parallel).sec .A).outletAux = .closed ∧
    (linked.sec .A).supervision = .idle ∧ (linked.sec .A).outletCommand = .opened ∧ (linked.sec .A).outletAux = .opened ∧ linked.quiet := by
  simp only [State.commands, State.asks, State.hears, State.quiet, State.exceededHonest, speaksFor]
  decide +kernel

theorem witness_coupler :
    ((closing 0).sec .A).couplerAux = .opened ∧ ((closing 0).berth .A).stage = .synchronising ∧ ((closing 0).sync .A).closeLine = true ∧ ((closing 0).berth .A).agreement ≠ none ∧
    ((inStage .releasing).sec .A).couplerAux = .opened ∧ ((inStage .releasing).berth .A).stage = .releasing ∧
    ((joined .rampingIn).sec .A).couplerAux = .closed ∧ ((joined .rampingIn).sec .A).couplerOpen = none ∧ ((joined .rampingIn).berth .A).stage = .rampingIn ∧
    ((pulsing .releasing).sec .A).couplerOpen = some 4 ∧ (pulsing .releasing).quiet ∧ ((pulsing .releasing).berth .A).stage ≠ .separating ∧
    ((pulsing .separating).berth .A).stage = .separating ∧ ((pulsing .separating).sec .A).couplerAux = .closed ∧ ((pulsing .separating).sec .A).outletCommand = .closed ∧ ((pulsing .separating).sec .A).outletAux = .closed := by
  simp only [State.commands, State.asks, State.hears, State.quiet, State.exceededHonest, speaksFor]
  decide +kernel

theorem witness_earth :
    ((checking 3 (.waiting 5)).sec .A).deferrals < 4 ∧ ((checking 3 (.waiting 5)).berth .A).stage = .synchronising ∧ (checking 3 (.waiting 5)).quiet ∧
    4 ≤ ((checking 4 (.waiting 5)).sec .A).deferrals ∧ ((checking 4 (.waiting 5)).sec .A).schedule = .waiting 5 ∧
    ((checking 4 (.running 5 true)).sec .A).schedule = .running 5 true ∧ ((checking 4 (.running 5 true)).sec .A).earthResult = .healthy := by
  simp only [State.commands, State.asks, State.hears, State.quiet, State.exceededHonest, speaksFor]
  decide +kernel

theorem witness_clock :
    linked.quiet ∧ (linked.tariff.clock + 1#32).toNat % linked.settings.intervalLength ≠ 0 ∧
    ((priced 899#32).tariff.clock + 1#32).toNat % (priced 899#32).settings.intervalLength = 0 ∧ (priced 899#32).tariff.pending ≠ none ∧ (priced 899#32).quiet := by
  simp only [State.commands, State.asks, State.hears, State.quiet, State.exceededHonest, speaksFor]
  decide +kernel

theorem witness_invariants :
    State.reset.exceededHonest ∧
    State.reset.settings.inRange = true ∧
    allBerths.all (fun b => decide ((State.reset.berth b).holder = .nobody)) = true ∧
    allBerths.all (fun b => decide ((State.reset.sec b).deferrals ≤ 4)) = true ∧
    allBerths.all (fun b => decide (((checking 4 (.waiting 5)).sec b).deferrals ≤ 4)) = true := by
  simp only [State.commands, State.asks, State.hears, State.quiet, State.exceededHonest, speaksFor]
  decide +kernel

/-! The clauses added at the review. -/

theorem witness_anyFirstFrame :
    commandOfFrame (.ship .A) 0#8 0x20#8 [] = .plantReset (.ship .A) [] ∧ knownCode 0x29#8 = false ∧
    commandOfFrame .tariff 0#8 0x29#8 [] = .unknownRequest .tariff 0x29#8 [] ∧
    commandOfFrame .shore 1#8 0x23#8 [] = .nonRequestFrame .shore 1#8 0x23#8 [] ∧
    down.quiet ∧ (down.links.get .tariff).up = false := by
  simp only [State.commands, State.asks, State.hears, State.quiet, State.exceededHonest, speaksFor]
  decide +kernel

theorem witness_grants :
    (asking .B 3 (inStage .agreed)).commands .shore .A ∧
    (asking .B 3 (inStage .agreed)).readyModules.length + (asking .B 3 (inStage .agreed)).eligibleModules.length < 3 ∧
    (stocked 4 0).commands .shore .A ∧ ((stocked 4 0).berth .A).stage = .agreed ∧
    (stocked 4 0).pool.queue = [] ∧ (stocked 4 0).pool.chargeList = [] ∧
    modulesWanted ((stocked 4 0).agreedKw .A) (stocked 4 0).settings.rating = 4 ∧
    (stocked 4 0).readyModules.length = 4 ∧ (stocked 4 0).eligibleModules.length = 0 ∧
    allModules.all (fun m => decide (((stocked 4 0).module m).berth ≠ some .A)) = true ∧
    ((stocked 4 0).sec .A).outletCommand = .opened ∧
    (stocked 3 600000000).commands .shore .A ∧ (stocked 3 600000000).readyModules.length < 4 ∧
    4 ≤ (stocked 3 600000000).readyModules.length + (stocked 3 600000000).eligibleModules.length := by
  simp only [State.commands, State.asks, State.hears, State.quiet, State.exceededHonest, speaksFor]
  decide +kernel

theorem witness_intervals :
    (metered 7 linked).hears .shore ∧ ((metered 7 linked).meter .A).connected = true ∧
    ((metered 7 linked).meter .B).connected = false ∧ ((metered 7 linked).meter .C).connected = false ∧
    ((metered 7 linked).meter .A).interval = some begun ∧ (metered 7 linked).records.freeSlots ≠ [] ∧
    ((metered 7 linked).records.copyQueues.get .A).length < 8 ∧
    (fullPool (metered 7 linked)).hears .shore ∧ (fullPool (metered 7 linked)).records.freeSlots = [] ∧
    (metered 7 (priced 899#32)).quiet ∧
    ((metered 7 (priced 899#32)).tariff.clock + 1#32).toNat % (metered 7 (priced 899#32)).settings.intervalLength = 0 ∧
    ((metered 7 (priced 899#32)).meter .A).interval = some begun ∧
    ((metered 7 (priced 899#32)).records.copyQueues.get .A).length = 7 ∧
    (fullPool (metered 8 (priced 899#32))).quiet ∧ (fullPool (metered 8 (priced 899#32))).records.freeSlots = [] := by
  simp only [State.commands, State.asks, State.hears, State.quiet, State.exceededHonest, speaksFor]
  decide +kernel

theorem witness_heldRecords :
    withHeld.hears .tariff ∧ withHeld.records.tariffQueue = [{ number := 7#16, first := 0, second := none }] ∧
    withHeld.records.slots.get 0 = .used 7#16 sample 1 ∧
    withHeld.records.held = [{ berth := .A, copyWanted := true }] ∧ (withHeld.meter .A).held ≠ none ∧
    (withHeld.records.copyQueues.get .A).length < 8 ∧
    (withHeld.modRecords fun p => { p with held := [] }).records.poolLow = true ∧
    (withHeld.modRecords fun p => { p with held := [] }).hears .tariff := by
  simp only [State.commands, State.asks, State.hears, State.quiet, State.exceededHonest, speaksFor]
  decide +kernel

theorem witness_moduleGrants :
    (asking .A 1 (moduleIn .draining none)).quiet ∧ (asking .A 1 (moduleIn .draining none)).pool.chargeList = [] ∧
    (atExpiry 9 (asking .A 1 (moduleIn .draining none))).readyModules = [] ∧
    (atExpiry 9 (asking .A 1 (moduleIn .draining none))).eligibleModules = [] ∧
    ((asking .A 2 (moduleIn .charging none)).module 0).state = .charging ∧
    ((asking .A 2 (moduleIn .charging none)).module 0).berth = none ∧
    (asking .A 1 ((inStage .allocating).modModule 0 fun m => { m with state := .draining, timer := some 9 })).quiet ∧
    ((inStage .allocating).sec .A).outletCommand = .opened ∧
    allModules.all (fun k => decide (((inStage .allocating).module k).berth ≠ some .A)) = true ∧
    ((inStage .allocating).modModule 0 fun m => { m with state := .charging, berth := some .A }).hasEntry .A = false ∧
    ((inStage .allocating).modModule 0 fun m => { m with state := .charging, berth := some .A }).quiet := by
  simp only [State.commands, State.asks, State.hears, State.quiet, State.exceededHonest, speaksFor]
  decide +kernel

theorem witness_passingTime :
    ((running 4294967295#32 1#32).reference .A).mode ≠ .stopped ∧ (linked.reference .A).mode = .stopped ∧
    ((captured 0#32).input .ship .A).deadTimer = some 400000 ∧ (captured 0#32).now + 400000 ≤ 400000 ∧
    400000 < (captured 0#32).now + 400001 ∧ (captured 0#32).quiet ∧
    ((busLive .shoreCarrying).input .ship .A).deadTimer = some 400000 ∧
    ((captured 0#32).input .ship .A).live = true ∧ ((captured 0#32).input .ship .A).latest = some 0#32 ∧
    10000 ≤ (10000#32 - 0#32 : BitVec 32).toNat := by
  simp only [State.commands, State.asks, State.hears, State.quiet, State.exceededHonest, speaksFor]
  decide +kernel

theorem witness_phases :
    (596523 * 3600 + 2 ^ 31) / 2 ^ 32 % 3600 = 0 ∧ (596524 * 3600 + 2 ^ 31) / 2 ^ 32 % 3600 = 1 ∧
    (2148080171 * 3600 + 2 ^ 31) / 2 ^ 32 % 3600 = 1800 ∧ (2148080172 * 3600 + 2 ^ 31) / 2 ^ 32 % 3600 = 1801 ∧
    (4294370772 * 3600 + 2 ^ 31) / 2 ^ 32 % 3600 = 3599 ∧ (4294370773 * 3600 + 2 ^ 31) / 2 ^ 32 % 3600 = 0 ∧
    2 ^ 32 ≤ 4293774250 + 1193046 ∧ (4293774250 * 3600 + 2 ^ 31) / 2 ^ 32 % 3600 = 3599 := by
  decide

theorem witness_missing :
    (portAt 9#32 0 99 (metered 0 linked)).quiet ∧ (portAt 9#32 0 99 (metered 0 linked)).port.missing = 99 ∧
    (portAt 9#32 0 99 (metered 0 linked)).port.awaited ≠ none ∧ (portAt 9#32 0 99 (metered 0 linked)).port.taken = false ∧
    ((portAt 9#32 0 99 (metered 0 linked)).meter .A).connected = true ∧
    (((metered 0 linked).modMeter .A fun m => { m with missed := 4 }).meter .A).missed < 5 ∧
    5 ≤ (((metered 0 linked).modMeter .A fun m => { m with missed := 5 }).meter .A).missed ∧
    (portAt 9#32 0 99 (metered 0 linked)).port.last.get .A ≠ none ∧
    ((metered 0 linked).meter .A).delivered + 2 ^ 31 < 2 ^ 64 ∧ ((inStage .energising).berth .A).stage = .energising := by
  simp only [State.commands, State.asks, State.hears, State.quiet, State.exceededHonest, speaksFor]
  decide +kernel

theorem witness_frames :
    ([] : List Byte).length ≠ 27 ∧
    (busFrameOctets 5#8 (.same { outlet := 0#16, shipBus := 0#16, power := 0#32 })).length = 27 ∧
    ((List.replicate 27 1#8).drop 25 ≠ crcOctets ((List.replicate 27 1#8).take 25)) ∧
    (portAt 9#32 0 0 (metered 0 (joined .shoreCarrying))).quiet ∧
    (portAt 9#32 0 0 (metered 0 (joined .shoreCarrying))).port.awaited = some 5#8 ∧
    (portAt 9#32 0 0 (metered 0 (joined .shoreCarrying))).port.taken = false ∧
    ((metered 0 (joined .shoreCarrying)).meter .A).connected = true ∧
    allBerths.all (fun c => decide (((joined .shoreCarrying).berth c).stage ≠ .rampingOut)) = true ∧
    (rampingDown 0).quiet ∧ ((rampingDown 0).ramp .A).setpoint = 0 ∧ ((rampingDown 0).sec .A).couplerAux = .closed ∧
    (measuredKw 200499#32).natAbs ≤ (rampingDown 0).settings.threshold ∧
    (rampingDown 0).settings.threshold < (measuredKw 200500#32).natAbs ∧
    ((inStage .energising).berth .A).stage = .energising ∧ ((inStage .energising).berth .A).syncHold = false := by
  simp only [State.commands, State.asks, State.hears, State.quiet, State.exceededHonest, speaksFor]
  decide +kernel

theorem witness_reservation :
    (syncing 2).records.reservedSlots .A = [] ∧ (syncing 2).records.freeSlots.take 2 = [0, 1] ∧
    (reservedA (syncing 2)).records.reservedSlots .A = [2, 5] ∧
    (compute .A 1001852#32 (reservedA (syncing 2))).verdict = .qualifying ∧
    (reservedA (closing 1)).quiet ∧ (reservedA (closing 1)).records.held = [] ∧
    ((reservedA (closing 1)).meter .A).connected = false ∧
    ((reservedA (closing 1)).berth .A).stage = .synchronising ∧
    ((reservedA (closing 1)).sync .A).supervision = some 6 := by
  simp only [State.commands, State.asks, State.hears, State.quiet, State.exceededHonest, speaksFor]
  decide +kernel

theorem witness_rampingOut :
    (portAt 200499#32 5 0 (rampingDown 50)).quiet ∧ ((rampingDown 50).ramp .A).advance = some 8 ∧
    ((rampingDown 50).ramp .A).state = .moving ∧ ((rampingDown 50).ramp .A).suspended = false ∧
    ((rampingDown 50).berth .A).stage = .rampingOut ∧ ((rampingDown 50).ramp .A).target = 0 ∧
    0 < ((rampingDown 50).ramp .A).setpoint ∧
    ((rampingDown 50).ramp .A).setpoint ≤ ((rampingDown 50).ramp .A).rate / 10 ∧
    ((rampingDown 51).ramp .A).rate / 10 < ((rampingDown 51).ramp .A).setpoint ∧
    (portAt 200499#32 5 0 (rampingDown 50)).port.age.get .A ≤ 5 ∧
    (measuredKw 200499#32).natAbs ≤ (rampingDown 50).settings.threshold ∧
    ((rampingDown 50).sec .A).couplerAux = .closed ∧
    5 < (portAt 200499#32 6 0 (rampingDown 50)).port.age.get .A ∧ (rampingDown 50).port.last.get .A = none := by
  simp only [State.commands, State.asks, State.hears, State.quiet, State.exceededHonest, speaksFor]
  decide +kernel

theorem witness_moreTrips :
    ((closing 2).sync .A).supervision = some 6 ∧ 2 ≤ ((closing 2).sync .A).failures ∧ (closing 2).quiet ∧
    ((joined .allocating).sec .A).plugPilot = .closed ∧ ((joined .allocating).berth .A).stage = .allocating ∧
    ((joined .parallel).sec .A).outletAux ≠ .opened ∧ ((joined .parallel).sec .A).supervision = .idle ∧
    ((joined .parallel).sec .A).outletCommand ≠ .opened ∧ (joined .parallel).quiet ∧
    (linked.sec .A).outletAux ≠ .closed ∧ (linked.sec .A).outletCommand ≠ .closed ∧
    (linked.sec .A).couplerAux ≠ .closed ∧ (linked.sec .A).plugPilot ≠ .closed ∧
    (linked.sec .A).emergencyStop ≠ .opened ∧ (linked.sec .A).earthResult ≠ .failed := by
  simp only [State.commands, State.asks, State.hears, State.quiet, State.exceededHonest, speaksFor]
  decide +kernel

theorem witness_connectionEnds :
    (reservedA (metered 6 parting)).quiet ∧ (parting.berth .A).stage = .separating ∧
    (parting.berth .A).separationCause = some .forced ∧ (parting.sec .A).couplerAux = .closed ∧
    (parting.sec .A).couplerOpen = some 4 ∧ (parting.sec .A).outletCommand = .closed ∧
    (parting.sec .A).outletAux = .closed ∧
    ((parting.modSec .A fun c => { c with supervision := .opening 5 }).sec .A).supervision = .opening 5 ∧
    (parting.berth .A).linkLost = false ∧ (parting.sync .A).inFlight = false ∧ (parting.berth .A).moduleCount = 0 ∧
    ((reservedA (metered 6 parting)).meter .A).connected = true ∧
    ((reservedA (metered 6 parting)).meter .A).interval = some begun ∧
    ((reservedA (metered 6 parting)).meter .A).terms = some terms ∧
    (reservedA (metered 6 parting)).records.freeSlots ≠ [] ∧
    (reservedA (metered 6 parting)).records.reservedSlots .A = [2, 5] ∧
    ((reservedA (metered 6 parting)).records.copyQueues.get .A).length ≤ 6 ∧
    (fullPool (metered 7 parting)).records.freeSlots = [] ∧ (fullPool (metered 7 parting)).quiet := by
  simp only [State.commands, State.asks, State.hears, State.quiet, State.exceededHonest, speaksFor]
  decide +kernel

theorem witness_resetLine :
    (linked.sec .A).emergencyStop = .closed ∧ (linked.sec .A).outletAux = .opened ∧
    allBerths.all (fun b => decide ((linked.sec b).emergencyStop = .closed ∧ (linked.sec b).outletAux = .opened)) = true ∧
    ((trippedBy .overload .opened).sec .A).emergencyStop = .opened ∧
    ((trippedBy .overload .opened).sec .A).outletAux = .opened ∧
    ((joined .parallel).sec .A).outletAux = .closed ∧ ((joined .parallel).sec .A).emergencyStop = .closed ∧
    ((joined .parallel).sec .A).couplerAux = .closed := by
  decide +kernel

theorem witness_plantResetCases :
    linked.hears .shore ∧ allBerths.all (fun b => (linked.berth b).stage.resettable) = true ∧
    allBerths.all (fun b => decide ((linked.sec b).plugPilot = .opened ∧ (linked.sec b).emergencyStop = .closed ∧
      (linked.sec b).outletAux = .opened)) = true ∧
    plugged.hears .shore ∧ allBerths.all (fun b => (plugged.berth b).stage.resettable) = true ∧
    (plugged.berth .A).stage ≠ .agreed ∧ (plugged.berth .A).inService = true ∧ (plugged.berth .A).linkLost = false ∧
    (plugged.sec .A).plugPilot = .closed ∧ (plugged.sec .A).emergencyStop = .closed ∧
    ((plugged.modSec .A fun c => { c with emergencyStop := .opened }).sec .A).emergencyStop = .opened ∧
    (inStage .agreed).agreedFreq .A = .hz60 ∧ linked.agreedFreq .A = .hz50 ∧
    (deadline 5).hears .shore ∧ ((deadline 5).berth .A).stage ≠ .agreed ∧
    allBerths.all (fun b => ((deadline 5).berth b).stage.resettable) = true ∧
    (deadline 5).agreedFreq .A = .hz60 ∧ ((deadline 5).input .ship .A).deadTimer = some 400000 := by
  simp only [State.commands, State.asks, State.hears, State.quiet, State.exceededHonest, speaksFor]
  decide +kernel

theorem witness_vacated :
    ((queued.modBerth .A fun r => { r with stage := .agreed }).berth .A).stage = .agreed ∧
    (queued.modBerth .A fun r => { r with stage := .agreed }).hears .shore ∧ queued.records.held = [] ∧
    queued.records.copyQueues.get .A ≠ [] ∧
    lowered (queued.records.copyQueues.get .A) 0 (queued.records.slots.get 0) = .used 7#16 sample 1 ∧
    lowered (queued.records.copyQueues.get .A) 0 (.used 7#16 sample 1) = .free ∧
    (withHeld.modRecords fun p => { p with copyQueues := .same [] }).records.copyQueues.get .A = [] ∧
    (withHeld.modRecords fun p => { p with copyQueues := .same [] }).hears .shore ∧ withHeld.records.held ≠ [] := by
  simp only [State.commands, State.asks, State.hears, State.quiet, State.exceededHonest, speaksFor]
  decide +kernel

theorem witness_waiting :
    (budgeted 4000 []).commands .shore .A ∧ ((budgeted 4000 []).berth .A).stage.mayStep = true ∧
    (budgeted 4000 []).waitEntry .A = none ∧ (budgeted 4000 []).reservation .A = 4000 ∧
    max ((budgeted 4000 []).ramp .A).setpoint (min 8000 (min ((budgeted 4000 []).agreedKw .A)
      ((budgeted 4000 []).ramp .A).capacity)) = 8000 ∧
    min (8000 - 4000) ((budgeted 4000 []).settings.importLimit - (budgeted 4000 []).reserved) = 2000 ∧
    served 10000 ⟨6000, 4000, 0⟩ [{ berth := .A, wanted := 8000 }] = (⟨6000, 4000, 0⟩, [{ berth := .A, wanted := 8000 }]) ∧
    (budgeted 5000 []).waitEntry .A = none ∧ ((budgeted 5000 []).ramp .A).setpoint ≤ 5000 ∧
    (budgeted 5000 [{ berth := .B, wanted := 4500 }, { berth := .C, wanted := 9000 }]).waitEntry .A = none ∧
    served 10000 ⟨4500, 4000, 0⟩ [{ berth := .B, wanted := 4500 }, { berth := .C, wanted := 9000 }] =
      (⟨4500, 4500, 1000⟩, [{ berth := .C, wanted := 9000 }]) ∧
    (budgeted 6000 [{ berth := .A, wanted := 7000 }]).commands .shore .A ∧
    ((budgeted 6000 [{ berth := .A, wanted := 7000 }]).ramp .A).wanted ≤ 8000 ∧
    (budgeted 6000 [{ berth := .A, wanted := 7000 }]).reservation .A < 8000 := by
  simp only [State.commands, State.asks, State.hears, State.quiet, State.exceededHonest, speaksFor]
  decide +kernel

theorem witness_givesUpModules :
    (supplied .allocating).commands .shore .A ∧ (supplied .allocating).quiet ∧
    ((supplied .allocating).berth .A).stage = .allocating ∧ ((supplied .allocating).berth .A).stageTimer = some 5 ∧
    (supplied .allocating).hasEntry .A = true ∧
    ((supplied .allocating).runningOf .A).filter (fun m => decide (m ∉ (supplied .allocating).pool.chargeList)) = [1] ∧
    ((supplied .allocating).module 2).state = .charging ∧ ((supplied .allocating).module 2).berth = some .A ∧
    3 ∈ (supplied .allocating).pool.chargeList ∧ ((supplied .allocating).module 3).berth = some .A := by
  simp only [State.commands, State.asks, State.hears, State.quiet, State.exceededHonest, speaksFor]
  decide +kernel

theorem witness_importLimit :
    (budgeted 4000 [{ berth := .A, wanted := 8000 }]).hears .shore ∧
    served 11000 ⟨4000, 4000, 0⟩ [{ berth := .A, wanted := 8000 }] = (⟨7000, 4000, 0⟩, [{ berth := .A, wanted := 8000 }]) ∧
    served 12000 ⟨4000, 4000, 0⟩ [{ berth := .A, wanted := 8000 }] = (⟨8000, 4000, 0⟩, []) := by
  simp only [State.commands, State.asks, State.hears, State.quiet, State.exceededHonest, speaksFor]
  decide +kernel

theorem witness_replacement :
    (lacking .shoreCarrying [{ berth := .B, wanted := 3, kind := .new, entered := 0 }] .dark).quiet ∧
    ((lacking .shoreCarrying [{ berth := .B, wanted := 3, kind := .new, entered := 0 }] .dark).module 1).berth = some .A ∧
    ((lacking .shoreCarrying [{ berth := .B, wanted := 3, kind := .new, entered := 0 }] .dark).module 1).state ≠ .faulted ∧
    (lacking .shoreCarrying [{ berth := .B, wanted := 3, kind := .new, entered := 0 }] .dark).hasEntry .A = false ∧
    (cleared (lacking .shoreCarrying [] .dark)).readyModules.length +
      (cleared (lacking .shoreCarrying [] .dark)).eligibleModules.length < 1 ∧
    (lacking .shoreCarrying [] .ready).pool.queue = [] ∧ (lacking .shoreCarrying [] .ready).hasEntry .A = false ∧
    (cleared (lacking .shoreCarrying [] .ready)).readyModules = [0] ∧
    0 ∉ (lacking .shoreCarrying [] .ready).pool.chargeList ∧
    ((lacking .shoreCarrying [] .ready).module 2).state = .charging ∧
    ((lacking .shoreCarrying [] .ready).module 2).timer = some 9 ∧
    ((lacking .shoreCarrying [] .ready).berth .A).stage ∈ [.allocating, .energising, .synchronising, .parallel, .rampingIn,
      .shoreCarrying, .rampingOut] ∧
    (lacking .separating [] .dark).quiet ∧
    ((lacking .separating [] .dark).berth .A).stage ∉ [.allocating, .energising, .synchronising, .parallel, .rampingIn,
      .shoreCarrying, .rampingOut] ∧
    (lacking .shoreCarrying [{ berth := .A, wanted := 1, kind := .replacement, entered := 0 }] .ready).readyModules.length +
      (lacking .shoreCarrying [{ berth := .A, wanted := 1, kind := .replacement, entered := 0 }]
        .ready).eligibleModules.length < 2 := by
  simp only [State.commands, State.asks, State.hears, State.quiet, State.exceededHonest, speaksFor]
  decide +kernel

theorem witness_outletEdge :
    (syncing 2).quiet ∧ ((syncing 2).input .outlet .A).deadTimer = none ∧ ((syncing 2).input .outlet .A).latest = none ∧
    (((syncing 2).modInput .outlet .A fun r =>
      { r with latest := some 0#32, live := true, deadTimer := some 10000 }).input .outlet .A).deadTimer = some 10000 ∧
    (syncing 2).now + 10000 ≤ 10000 ∧ 10000 ≤ (BitVec.ofNat 32 ((syncing 2).now + 10000) - 0#32).toNat := by
  simp only [State.commands, State.asks, State.hears, State.quiet, State.exceededHonest, speaksFor]
  decide +kernel

theorem witness_droppedCopy :
    (crowded 1).quiet ∧ ((crowded 1).tariff.clock + 1#32).toNat % (crowded 1).settings.intervalLength = 0 ∧
    ((crowded 1).meter .A).connected = true ∧ ((crowded 1).meter .B).connected = false ∧
    ((crowded 1).meter .C).connected = false ∧ ((crowded 1).meter .A).interval = some begun ∧
    ((crowded 1).records.freeSlots).head? = some 1 ∧ ((crowded 1).records.copyQueues.get .A).length = 8 ∧
    (crowded 1).records.held = [] ∧
    lowered [{ number := 1#16, first := 0, second := none }] 0 ((crowded 1).records.slots.get 0) = .free ∧
    lowered [{ number := 1#16, first := 0, second := none }] 0 ((crowded 2).records.slots.get 0) = .used 1#16 sample 1 := by
  simp only [State.commands, State.asks, State.hears, State.quiet, State.exceededHonest, speaksFor]
  decide +kernel

theorem witness_rampTarget :
    (budgeted 4000 []).commands .shore .A ∧ ((budgeted 4000 []).berth .A).stage.mayStep = true ∧
    min (min 4000 (min ((budgeted 4000 []).agreedKw .A) ((budgeted 4000 []).ramp .A).capacity)) 4000 =
      ((budgeted 4000 []).ramp .A).setpoint ∧
    ((budgeted 4000 []).ramp .A).state ≠ .moving ∧
    min (min 8000 (min ((budgeted 4000 []).agreedKw .A) ((budgeted 4000 []).ramp .A).capacity)) 6000 ≠
      ((budgeted 4000 []).ramp .A).setpoint ∧
    (ramped .moving 8000 6000 []).commands .shore .A ∧ ((ramped .moving 8000 6000 []).ramp .A).state = .moving ∧
    (ramped .moving 8000 6000 []).waitEntry .A = none := by
  simp only [State.commands, State.asks, State.hears, State.quiet, State.exceededHonest, speaksFor]
  decide +kernel

theorem witness_rampWaiting :
    (ramped .moving 8000 6000 [{ berth := .A, wanted := 8000 }, { berth := .B, wanted := 5000 }]).commands .shore .A ∧
    (ramped .moving 8000 6000 [{ berth := .A, wanted := 8000 }]).budget.waiting =
      [] ++ { berth := .A, wanted := 8000 } :: [] ∧
    7000 < ((ramped .moving 8000 6000 []).ramp .A).wanted ∧ ((ramped .moving 8000 6000 []).ramp .A).wanted ≤ 8000 ∧
    (ramped .moving 7000 8000 [{ berth := .A, wanted := 9000 }]).reservation .A ≥ 8000 ∧
    withoutEntry .A (budgeted 5000 [{ berth := .A, wanted := 8000 }, { berth := .B, wanted := 5000 }]) =
      (⟨5000, 5000, 0⟩, []) ∧
    Machine.asked 10000 .A 4500 ⟨5000, 4000, 0⟩ [{ berth := .B, wanted := 6000 }] =
      (⟨4500, 5500, 0⟩, [{ berth := .B, wanted := 6000 }]) ∧
    Machine.asked 10000 .A 8000 ⟨4000, 4000, 0⟩ [] = (⟨6000, 4000, 0⟩, [{ berth := .A, wanted := 8000 }]) := by
  simp only [State.commands, State.asks, State.hears, State.quiet, State.exceededHonest, speaksFor]
  decide +kernel

theorem witness_hold :
    (budgeted 6000 [{ berth := .A, wanted := 8000 }, { berth := .B, wanted := 5000 }]).commands .shore .A ∧
    ((budgeted 6000 []).berth .A).stage.mayStep = true ∧
    withoutEntry .A (budgeted 6000 [{ berth := .A, wanted := 8000 }, { berth := .B, wanted := 5000 }]) =
      (⟨6000, 4000, 0⟩, [{ berth := .B, wanted := 5000 }]) ∧
    served 10000 ⟨4000, 4000, 0⟩ [{ berth := .B, wanted := 5000 }] = (⟨4000, 5000, 0⟩, []) := by
  simp only [State.commands, State.asks, State.hears, State.quiet, State.exceededHonest, speaksFor]
  decide +kernel

theorem witness_zeroSetpoint :
    (atZero 200499#32 5 (joined .parallel)).commands .shore .A ∧
    ((atZero 200499#32 5 (joined .parallel)).ramp .A).setpoint = 0 ∧
    ((atZero 200499#32 5 (joined .parallel)).berth .A).stage = .parallel ∧
    ((atZero 200499#32 5 (joined .parallel)).sec .A).couplerAux = .closed ∧
    (atZero 200499#32 5 (joined .parallel)).port.age.get .A ≤ 5 ∧
    (measuredKw 200499#32).natAbs ≤ (atZero 200499#32 5 (joined .parallel)).settings.threshold ∧
    (atZero 200500#32 5 (joined .parallel)).settings.threshold < (measuredKw 200500#32).natAbs ∧
    5 < (atZero 200499#32 6 (joined .parallel)).port.age.get .A ∧
    (atZero 200499#32 5 (departing 1)).commands .shore .A ∧
    ((atZero 200499#32 5 (departing 1)).berth .A).mayDepart = true ∧
    ((atZero 200499#32 5 (departing 1)).berth .A).agreement ≠ none ∧
    ((atZero 200499#32 5 (departing 1)).ramp .A).setpoint = 0 ∧
    ((atZero 200499#32 5 (departing 1)).sec .A).couplerAux = .closed ∧
    (atZero 200500#32 5 (departing 1)).commands .shore .A ∧
    (atZero 200499#32 5 (joined .rampingOut)).commands .shore .A ∧
    ((atZero 200499#32 5 (joined .rampingOut)).berth .A).stage = .rampingOut ∧
    ((atZero 200499#32 5 (joined .rampingOut)).ramp .A).setpoint = 0 := by
  simp only [State.commands, State.asks, State.hears, State.quiet, State.exceededHonest, speaksFor]
  decide +kernel

theorem witness_forcedGrants :
    let s := (supplied .shoreCarrying).modSec .A fun c => { c with couplerAux := .closed }
    s.commands .shore .A ∧ (s.berth .A).stage.mayForce = true ∧ (s.sec .A).couplerAux = .closed ∧
    s.hasEntry .A = true ∧ s.runningOf .A = [1] ∧ 1 ∉ s.pool.chargeList ∧ (s.module 2).state = .charging ∧
    (s.module 2).berth = some .A ∧ 3 ∈ s.pool.chargeList ∧ (s.module 3).berth = some .A ∧ (s.ramp .A).setpoint = 0 ∧
    ((s.modRamp .A fun r => { r with setpoint := 9 }).ramp .A).setpoint ≠ 0 := by
  simp only [State.commands, State.asks, State.hears, State.quiet, State.exceededHonest, speaksFor]
  decide +kernel

theorem witness_tripGivesUp :
    let s := (supplied .shoreCarrying).modSec .A fun c => { c with overloadTimer := some 7, emergencyStop := .closed }
    s.quiet ∧ (s.berth .A).stage ≠ .tripped ∧ (s.sec .A).overloadTimer = some 7 ∧ (s.sec .A).emergencyStop = .closed ∧
    (s.runningOf .A).filter (fun m => decide (m ∉ s.pool.chargeList)) = [1] ∧ s.hasEntry .A = true ∧
    (s.module 2).state = .charging ∧ (s.module 2).berth = some .A ∧ (s.meter .A).connected = false ∧
    (s.sec .A).couplerAux ≠ .closed ∧ (s.sync .A).closeLine = false ∧
    ((closing 2).sec .A).couplerAux ≠ .closed ∧ ((closing 2).sync .A).closeLine = true ∧
    ((pulsing .parallel).sec .A).couplerAux = .closed ∧ ((pulsing .parallel).sec .A).couplerOpen = some 4 ∧
    (((offering .negotiating).modSec .A fun c => { c with emergencyStop := .closed }).sec .A).emergencyStop = .closed ∧
    ((offering .negotiating).berth .A).stage = .negotiating ∧ (offering .negotiating).quiet ∧
    ((joined .parallel).meter .A).connected = false ∧
    ((metered 0 (joined .parallel)).meter .A).connected = true := by
  simp only [State.commands, State.asks, State.hears, State.quiet, State.exceededHonest, speaksFor]
  decide +kernel

theorem witness_vacatedHeld :
    let s := withHeld.modBerth .A fun r => { r with stage := .agreed }
    s.hears .shore ∧ (s.berth .A).stage = .agreed ∧ s.records.held = [{ berth := .A, copyWanted := true }] ∧
    (s.meter .A).held.map IntervalRecord.berth = some .A ∧ s.records.copyQueues.get .A ≠ [] := by
  simp only [State.commands, State.asks, State.hears, State.quiet, State.exceededHonest, speaksFor]
  decide +kernel

theorem witness_lastPage :
    let s := (shipHolds .agreed).modUnit .A fun u => { u with lastMark := some true, lastReply := some { mark := true } }
    s.asks (.ship .A) .A ∧ (s.berth .A).stage = .agreed ∧ (s.unit .A).lastMark = some true ∧
    (s.unit .A).lastReply = some { mark := true } ∧ [0#8] ≠ flag true ∧ [2#8] ≠ flag true ∧
    ((shipHolds .agreed).unit .A).lastMark = none ∧ (shipHolds .agreed).asks (.ship .A) .A ∧
    (offering .negotiating).asks (.ship .A) .A ∧ ((offering .negotiating).berth .A).stage = .negotiating ∧
    ((offering .negotiating).unit .A).phase ≠ .collecting ∧ (shipHolds .vacant).asks (.ship .A) .A ∧
    ((shipHolds .vacant).berth .A).stage ≠ .negotiating ∧ ((shipHolds .vacant).berth .A).stage ≠ .agreed := by
  simp only [State.commands, State.asks, State.hears, State.quiet, State.exceededHonest, speaksFor]
  decide +kernel

theorem witness_shares :
    (supplied .parallel).runningOf .A = [1] ∧ ((supplied .parallel).ramp .A).setpoint = 0 ∧
    ((supplied .parallel).ramp .A).setpoint ≠ 4000 ∧ 0 < 11503 % 6 ∧ 11503 % 6 ≤ 1 ∧
    ((recomputeShares .A ((supplied .parallel).modRamp .A fun r => { r with setpoint := 4000 })).module 1).share = 4000 := by
  decide +kernel

theorem witness_advances :
    (ramped .moving 8000 6000 [{ berth := .A, wanted := 8000 }]).quiet ∧
    (moving 3960 4000).quiet ∧ ((moving 3960 4000).ramp .A).state = .moving ∧ (moving 3960 4000).waitEntry .A = none ∧
    (moving 3960 4000).agreedKw .A = 8000 ∧
    ((moving 4030 4000).ramp .A).target < ((moving 4030 4000).ramp .A).setpoint ∧
    lowersTo .A 4000 (budgeted 5000 [{ berth := .A, wanted := 6000 }, { berth := .B, wanted := 5000 }]) =
      (⟨4000, 5000, 0⟩, []) ∧
    lowersTo .A 4000 (budgeted 3000 [{ berth := .B, wanted := 8000 }, { berth := .A, wanted := 6000 }]) =
      (⟨3000, 7000, 0⟩, [{ berth := .B, wanted := 8000 }, { berth := .A, wanted := 4000 }]) := by
  simp only [State.commands, State.asks, State.hears, State.quiet, State.exceededHonest, speaksFor]
  decide +kernel

theorem witness_tripEndsConnection :
    let s := (reservedA (metered 6 (joined .shoreCarrying))).modSec .A fun c => { c with overloadTimer := some 7 }
    let p := (reservedA (metered 6 parting)).modSec .A fun c => { c with supervision := .idle }
    s.quiet ∧ (s.berth .A).stage ≠ .tripped ∧ (s.sec .A).overloadTimer = some 7 ∧ (s.meter .A).connected = true ∧
    (s.meter .A).interval = some begun ∧ (s.meter .A).terms = some terms ∧ s.records.freeSlots ≠ [] ∧
    s.records.reservedSlots .A = [2, 5] ∧ (s.records.copyQueues.get .A).length ≤ 6 ∧
    (fullPool (metered 7 (joined .shoreCarrying))).records.freeSlots = [] ∧
    p.quiet ∧ (p.berth .A).stage = .separating ∧ (p.berth .A).separationCause = some .forced ∧
    (p.sec .A).outletAux ≠ .opened ∧ (p.sec .A).supervision = .idle ∧ (p.sec .A).outletCommand ≠ .opened ∧
    (p.meter .A).connected = true := by
  simp only [State.commands, State.asks, State.hears, State.quiet, State.exceededHonest, speaksFor]
  decide +kernel

theorem witness_linkLossInFlight :
    let s := silent (.ship .A) (reservedA (closing 1))
    s.quiet ∧ (s.links.get (.ship .A)).up = true ∧ (s.links.get (.ship .A)).silence = some 5 ∧
    (s.berth .A).stage = .synchronising ∧ (s.sync .A).inFlight = true ∧ s.records.held = [] ∧
    s.records.reservedSlots .A = [2, 5] ∧ ((silent (.ship .A) (supplied .synchronising)).sync .A).inFlight = false ∧
    ((silent (.ship .A) (supplied .synchronising)).runningOf .A) = [1] := by
  simp only [State.commands, State.asks, State.hears, State.quiet, State.exceededHonest, speaksFor]
  decide +kernel

theorem witness_bands :
    let day : List SwitchPoint := [{ second := 0, band := 1 }, { second := 25200, band := 3 }, { second := 64800, band := 2 }]
    let late : List SwitchPoint := [{ second := 21600, band := 2 }, { second := 79200, band := 1 }]
    let rates := [9000, 14000, 18000]
    (bandAndRate (some { rates := rates, charge := 0, points := day }) 25199#32).1 = 1 ∧
    bandAndRate (some { rates := rates, charge := 0, points := day }) 25200#32 = (3, 18000, false) ∧
    bandAndRate (some { rates := rates, charge := 0, points := day }) 86399#32 = (2, 14000, false) ∧
    bandAndRate (some { rates := rates, charge := 0, points := late }) 96400#32 = (1, 9000, false) ∧
    day = [{ second := 0, band := 1 }] ++ { second := 25200, band := 3 } :: [{ second := 64800, band := 2 }] ∧
    (∀ q ∈ late, 10000 < q.second) := by
  decide +kernel

theorem witness_computation :
    ((syncing 0).input .ship .A).live = true ∧ ((syncing 0).input .ship .A).valid = true ∧
    ((syncing 0).input .ship .A).period = some 166667#32 ∧ ((syncing 0).input .ship .A).frequency = some 60000 ∧
    ((syncing 0).input .ship .A).latest = some 1000000#32 ∧
    (compute .A 1001852#32 (shipBus fun z => { z with live := false })).verdict = .shipNotLive ∧
    (compute .A 1001852#32 (shipBus fun z => { z with period := none })).verdict = .shipNotLive ∧
    (compute .A 1001852#32 (shipBus fun z => { z with valid := false })).verdict = .shipNotLive ∧
    (compute .A 1001852#32 (shipBus fun z => { z with latest := none })).verdict = .shipNotLive ∧
    (1000000#32 + 2147483647#32 - 1000000#32).toNat < 2 ^ 31 ∧ 2 ^ 31 ≤ (999999#32 - 1000000#32).toNat ∧
    ((syncing 0).input .ship .A).previous = none ∧ (compute .A 999999#32 (syncing 0)).verdict = .shipNotLive ∧
    (compute .A 999999#32 (shipBus fun z => { z with previous := some 833333#32 })).delta = some 166666 ∧
    (compute .A 1166667#32 (syncing 0)).verdict = .lateShipCrossing ∧
    (compute .A 1166666#32 (syncing 0)).verdict ≠ .lateShipCrossing ∧
    (compute .A 1001852#32 ((syncing 0).modInput .outlet .A fun z => { z with frequency := none })).verdict =
      .noOutletPeriod ∧
    (syncing 0).port.last.get .A = some { outlet := 11000#16, shipBus := 11000#16, power := 0#32 } ∧
    (syncing 0).port.last.get .B = none ∧
    (compute .A 1001852#32 ((syncing 0).modPort fun p => { p with age := .same 6 })).verdict = .voltageStale ∧
    (compute .A 1001852#32 ((syncing 0).modPort fun p => { p with age := .same 5 })).verdict = .qualifying ∧
    (compute .A 1001852#32 (syncing 0)).theta = some 40 ∧ (compute .A 1001852#32 (syncing 0)).slip = some 60 ∧
    (compute .A 1001852#32 (syncing 0)).advanceAngle = some 17 ∧
    (compute .A 1001852#32 (syncing 0)).predicted = some 23 := by
  decide +kernel

theorem witness_lastComputation :
    (linked.sync .A).running = false ∧
    ((outletCrossing .A 1001852#32 (syncing 1)).sync .A).last.map Computation.count = some 2 ∧
    ((outletCrossing .A 1001852#32 (syncing 2)).sync .A).last.map Computation.count = some 3 ∧
    ((outletCrossing .A 1001852#32 full).sync .A).last.map Computation.verdict = some .poolLow := by
  decide +kernel

theorem witness_capacityReport :
    let s := (lacking .shoreCarrying [] .dark).modRamp .A fun r => { r with setpoint := 50, capacity := 2000 }
    s.quiet ∧ (s.module 1).state = .running ∧ (s.module 1).berth = some .A ∧ s.readyModules = [] ∧
    (∀ k ∈ s.pool.chargeList, (s.module k).state = .dark) ∧ s.pool.chargeList = [3] ∧
    ((s.berth .A).moduleCount - 1) * s.settings.rating < (s.ramp .A).setpoint ∧
    (((s.modBerth .A fun r => { r with moduleCount := 2 }).berth .A).moduleCount - 1) * s.settings.rating = 2000 ∧
    (lacking .shoreCarrying [] .ready).readyModules = [0] := by
  simp only [State.commands, State.asks, State.hears, State.quiet, State.exceededHonest, speaksFor]
  decide +kernel

theorem witness_openInRampingOut :
    let openAt := fun setpoint : Nat => portAt 0#32 0 0 (metered 0 (rampingDown setpoint))
    (openAt 0).quiet ∧ (openAt 0).port.awaited = some 5#8 ∧ (openAt 0).port.taken = false ∧
    ((openAt 0).berth .A).stage = .rampingOut ∧ ((openAt 0).meter .A).connected = true ∧
    ((openAt 0).sec .A).couplerAux = .closed ∧ ((openAt 1).ramp .A).setpoint ≠ 0 ∧
    (((openAt 0).modSec .A fun c => { c with couplerAux := .opened }).sec .A).couplerAux ≠ .closed ∧
    (openAt 0).settings.threshold < (measuredKw 200500#32).natAbs ∧
    ¬ (openAt 0).settings.threshold < (measuredKw 200499#32).natAbs ∧
    ((takeGoodFrame 5#8 (.same { outlet := 0#16, shipBus := 0#16, power := 200500#32 }) (openAt 0)).meter .A).delivered =
      200500 ∧
    ((takeGoodFrame 5#8 (.same { outlet := 0#16, shipBus := 0#16, power := 200499#32 }) (openAt 0)).meter .A).connected =
      true := by
  simp only [State.commands, State.asks, State.hears, State.quiet, State.exceededHonest, speaksFor]
  decide +kernel

theorem witness_recordNotices :
    let s := fun free copies : Nat => withFree free (metered copies (priced 899#32))
    (s 4 0).quiet ∧ (s 4 0).hears .shore ∧ (s 4 0).records.freeSlots = [0, 1, 2, 3] ∧ (s 4 0).records.tariffQueue = [] ∧
    (s 4 0).records.tariffArmed = true ∧ (s 4 0).records.copyQueues.get .A = [] ∧ (s 4 0).records.copyArmed.get .A = true ∧
    (s 4 0).records.poolLow = false ∧ ((s 4 0).meter .A).interval = some begun ∧
    (takeClockAdvance (s 4 0)).records.poolLow = true ∧ (takeClockAdvance (s 4 0)).tariffSet .recordsAvailable = true ∧
    (takeClockAdvance (s 4 0)).shipSet .A .copiesAvailable = true ∧
    (takeClockAdvance (s 5 0)).records.poolLow = false ∧
    (takeClockAdvance (s 5 7)).shipSet .A .copiesAvailable = false ∧ (s 1 8).records.freeSlots = [0] := by
  simp only [State.commands, State.asks, State.hears, State.quiet, State.exceededHonest, speaksFor]
  decide +kernel

theorem witness_linkLossHold :
    let s := silent (.ship .A) (budgeted 6000 [{ berth := .A, wanted := 8000 }, { berth := .B, wanted := 5000 }])
    s.quiet ∧ (s.links.get (.ship .A)).up = true ∧ (s.links.get (.ship .A)).silence = some 5 ∧
    (s.berth .A).stage = .rampingIn ∧ s.waitEntry .A ≠ none ∧ (s.ramp .A).setpoint < s.reservation .A ∧
    withoutEntry .A s = (⟨6000, 4000, 0⟩, [{ berth := .B, wanted := 5000 }]) ∧
    ((silent (.ship .A) (rampingDown 50)).berth .A).stage = .rampingOut ∧
    (silent (.ship .A) (rampingDown 50)).waitEntry .A = none := by
  simp only [State.commands, State.asks, State.hears, State.quiet, State.exceededHonest, speaksFor]
  decide +kernel

end Sys2Proof.Tests
end

