-- ==== Sys2Proof/Proofs/Reads.lean ====
section
/-! SUPPORT. The reads (O7) and the agreement exchange (O23 to O25): what each request answers and what it leaves. -/

namespace Sys2Proof.Machine

/-! What a request that only answers leaves behind. -/

/-- A request whose whole effect is one thing sent. -/
theorem validFrame_emit (l : Link) (f : State → State) (s : State) (x : Sent) (h : s.hears l)
    (e : f (heard l s) = emit x (heard l s)) : validFrame l f s = emit x (heard l s) :=
  validFrame_eq l f s _ h e (by simp) (by simp)

/-- A request for a berth in the wrong stage (R5, step 3). -/
theorem screened_of_wrong_stage (l : Link) (code : Byte) (b : Berth) (x z : Bool) (f : State → State) (s : State)
    (hx : x = true → (s.berth b).inService = true) :
    screened l code b x false z f s = refuse l code .wrongStage s := by
  unfold screened
  cases x
  · simp
  · simp [hx rfl]

/-- A berth's request whose length is one octet on the shore link and none on a ship link (R170). -/
theorem payloadLength_of_speaks (code : Nat) (l : Link) (b : Berth) (onTariff : Option Nat)
    (hc : payloadLengths code = (some 1, some 0, onTariff)) (hl : speaksFor l b) :
    payloadLength code l = some ((berthField l b).length + ([] : List Byte).length) := by
  rcases hl with rfl | rfl <;> simp [payloadLength, hc, berthField]

/-- A plain request that only answers. -/
theorem plainRead_answers (l : Link) (code : Byte) (items : State → List Byte) (s : State) (h : s.hears l)
    (hp : payloadLength code.toNat l = some 0) :
    validFrame l (withPlain l code [] fun s => reply l code .done (items s) s) s =
      emit (doneReply l code (items (heard l s))) (heard l s) := by
  refine validFrame_emit _ _ _ _ h ?_
  rw [withPlain_of_length _ _ _ _ _ hp]
  exact reply_heard ..

/-- A request about a berth that only answers. -/
theorem berthRead_answers (l : Link) (code : Byte) (b : Berth) (items : State → Berth → List Byte) (s : State)
    (h : s.hears l) (hl : speaksFor l b ∨ l = .tariff)
    (hp : payloadLength code.toNat l = some ((berthField l b).length + ([] : List Byte).length)) :
    validFrame l (withBerth l code (berthField l b) fun b _ s => reply l code .done (items s b) s) s =
      emit (doneReply l code (items (heard l s) b)) (heard l s) := by
  refine validFrame_emit _ _ _ _ h ?_
  have e := withBerth_of_speaks l code b [] (fun b _ s => reply l code .done (items s b) s) (heard l s) hl hp
  rw [List.append_nil] at e
  rw [e]
  exact reply_heard ..

/-- Read Offer is screened by its berth's stage alone (R5, R31). -/
theorem takeReadOffer_eq (l : Link) (b : Berth) (s : State) (hl : speaksFor l b) :
    takeReadOffer l (berthField l b) s =
      screened l 0x04#8 b false (decide ((s.berth b).stage ≠ .vacant)) false
        (fun s => reply l 0x04#8 .done (optional 12 offerItems (s.unit b).offer) s) s := by
  have e := withBerth_of_speaks l 0x04#8 b []
    (fun b _ s =>
      screened l 0x04#8 b false (decide ((s.berth b).stage ≠ .vacant)) false
        (fun s => reply l 0x04#8 .done (optional 12 offerItems (s.unit b).offer) s) s)
    s (.inl hl) (payloadLength_of_speaks _ l b none rfl hl)
  rwa [List.append_nil] at e

/-- Outside VACANT, Read Offer answers with the offer held (R31). -/
theorem readOffer_answers (l : Link) (b : Berth) (s : State) (h : s.hears l) (hl : speaksFor l b)
    (hg : (s.berth b).stage ≠ .vacant) :
    exec (.readOffer l (berthField l b)) s =
      .next (emit (doneReply l 0x04#8 (optional 12 offerItems (s.unit b).offer)) (heard l s)) := by
  refine congrArg Host.Outcome.next (validFrame_emit _ _ _ _ h ?_)
  rw [takeReadOffer_eq l b _ hl, screened_of_ok _ _ _ _ _ _ _ _ (by simp) (by simpa using hg) (by simp)]
  exact reply_heard ..

/-- In VACANT, Read Offer is refused (R31). -/
theorem readOffer_refused (l : Link) (b : Berth) (s : State) (h : s.hears l) (hl : speaksFor l b)
    (hg : (s.berth b).stage = .vacant) :
    exec (.readOffer l (berthField l b)) s = .next (emit (refusal l 0x04#8 .wrongStage) (heard l s)) := by
  refine congrArg Host.Outcome.next (validFrame_emit _ _ _ _ h ?_)
  have hd : decide (((heard l s).berth b).stage ≠ .vacant) = false := by simpa using hg
  rw [takeReadOffer_eq l b _ hl, hd, screened_of_wrong_stage _ _ _ _ _ _ _ (by simp)]
  exact refuse_heard ..

/-- Read Synchroniser, Read Ramp and Read Protection answer (R100, R120, R136). -/
theorem berthReads_answer (l : Link) (b : Berth) (s : State) (h : s.hears l) (hl : speaksFor l b) :
    exec (.readSynchroniser l (berthField l b)) s = .next (emit (doneReply l 0x15#8 (s.syncItems b)) (heard l s)) ∧
    exec (.readRamp l (berthField l b)) s = .next (emit (doneReply l 0x16#8 (s.rampItems b)) (heard l s)) ∧
    exec (.readProtection l (berthField l b)) s =
      .next (emit (doneReply l 0x18#8 (s.protectionItems b)) (heard l s)) :=
  have hp := fun code hc => payloadLength_of_speaks code l b none hc hl
  ⟨congrArg Host.Outcome.next (berthRead_answers l 0x15#8 b State.syncItems s h (.inl hl) (hp _ rfl)),
   congrArg Host.Outcome.next (berthRead_answers l 0x16#8 b State.rampItems s h (.inl hl) (hp _ rfl)),
   congrArg Host.Outcome.next (berthRead_answers l 0x18#8 b State.protectionItems s h (.inl hl) (hp _ rfl))⟩

/-- Read Meter answers on the tariff link too (R153). -/
theorem readMeter_answers (l : Link) (b : Berth) (s : State) (h : s.hears l) (hl : speaksFor l b ∨ l = .tariff) :
    exec (.readMeter l (berthField l b)) s =
      .next (emit (doneReply l 0x19#8 (meterItems (s.meter b))) (heard l s)) := by
  refine congrArg Host.Outcome.next
    (berthRead_answers l 0x19#8 b (fun s b => meterItems (s.meter b)) s h hl ?_)
  rcases hl with hl | rfl
  · exact payloadLength_of_speaks _ l b (some 1) rfl hl
  · rfl

/-- Fetch Copy answers with the head of the berth's copy queue (R164). -/
theorem fetchCopy_answers (b : Berth) (s : State) (h : s.hears (.ship b)) :
    exec (.fetchCopy (.ship b) []) s =
      .next (emit (doneReply (.ship b) 0x27#8
        (headItems s.records (s.records.copyQueues.get b) ++ field 1 (s.records.missedCopies.get b)))
        (heard (.ship b) s)) :=
  congrArg Host.Outcome.next
    (berthRead_answers (.ship b) 0x27#8 b
      (fun s b => headItems s.records (s.records.copyQueues.get b) ++ field 1 (s.records.missedCopies.get b))
      s h (.inl (.inr rfl)) rfl)

/-- Keep Alive answers on every link (R169). -/
theorem keepAlive_answers (l : Link) (s : State) (h : s.hears l) :
    exec (.keepAlive l []) s = .next (emit (doneReply l 0x23#8 []) (heard l s)) :=
  congrArg Host.Outcome.next (plainRead_answers l 0x23#8 (fun _ => []) s h (by cases l <;> rfl))

/-- Read Module Pool, Read Budget and Read Measurement answer on the shore link (R68, R84, R120). -/
theorem shoreReads_answer (s : State) (h : s.hears .shore) :
    exec (.readModulePool .shore []) s = .next (emit (doneReply .shore 0x13#8 s.poolItems) (heard .shore s)) ∧
    exec (.readBudget .shore []) s = .next (emit (doneReply .shore 0x17#8 s.budgetItems) (heard .shore s)) ∧
    exec (.readMeasurement .shore []) s =
      .next (emit (doneReply .shore 0x14#8 (allBerths.flatMap s.measurementItems ++ portItems s.port))
        (heard .shore s)) :=
  ⟨congrArg Host.Outcome.next (plainRead_answers .shore 0x13#8 State.poolItems s h rfl),
   congrArg Host.Outcome.next (plainRead_answers .shore 0x17#8 State.budgetItems s h rfl),
   congrArg Host.Outcome.next
     (plainRead_answers .shore 0x14#8 (fun s => allBerths.flatMap s.measurementItems ++ portItems s.port) s h rfl)⟩

/-- Read Measurement answers a ship about its own berth (R84). -/
theorem readMeasurement_answers_ship (b : Berth) (s : State) (h : s.hears (.ship b)) :
    exec (.readMeasurement (.ship b) []) s =
      .next (emit (doneReply (.ship b) 0x14#8 (s.measurementItems b)) (heard (.ship b) s)) :=
  congrArg Host.Outcome.next (plainRead_answers (.ship b) 0x14#8 (fun s => s.measurementItems b) s h rfl)

/-- Read Tariff and Read Record Pool answer on the shore link and the tariff link (R153, R166). -/
theorem plantReads_answer (l : Link) (s : State) (h : s.hears l) (hl : l = .shore ∨ l = .tariff) :
    exec (.readTariff l []) s = .next (emit (doneReply l 0x1A#8 s.tariffItems) (heard l s)) ∧
    exec (.readRecordPool l []) s = .next (emit (doneReply l 0x1B#8 s.records.items) (heard l s)) :=
  have hp : payloadLength 0x1A l = some 0 ∧ payloadLength 0x1B l = some 0 := by
    rcases hl with rfl | rfl <;> exact ⟨rfl, rfl⟩
  ⟨congrArg Host.Outcome.next (plainRead_answers l 0x1A#8 State.tariffItems s h hp.1),
   congrArg Host.Outcome.next (plainRead_answers l 0x1B#8 (fun s => s.records.items) s h hp.2)⟩

/-- Fetch Record answers with the head of the tariff queue (R162). -/
theorem fetchRecord_answers (s : State) (h : s.hears .tariff) :
    exec (.fetchRecord .tariff []) s =
      .next (emit (doneReply .tariff 0x25#8 (headItems s.records s.records.tariffQueue)) (heard .tariff s)) :=
  congrArg Host.Outcome.next
    (plainRead_answers .tariff 0x25#8 (fun s => headItems s.records s.records.tariffQueue) s h rfl)

/-- Settles O7: each request is one of two forms, a berth's read and a plain read, whose answer is worked out once. -/
theorem readsOnlyAnswer : Obligations.ReadsOnlyAnswer := by
  refine ⟨fun l b s h => ⟨fun hl => ?_, readMeter_answers l b s h, ?_⟩,
    fun l s h => ⟨keepAlive_answers l s h, ?_, ?_, plantReads_answer l s h, ?_⟩⟩
  · obtain ⟨hsync, hramp, hprotection⟩ := berthReads_answer l b s h hl
    exact ⟨hsync, hramp, hprotection, readOffer_answers l b s h hl, readOffer_refused l b s h hl⟩
  · rintro rfl
    exact fetchCopy_answers b s h
  · rintro rfl
    exact shoreReads_answer s h
  · rintro b rfl
    exact readMeasurement_answers_ship b s h
  · rintro rfl
    exact fetchRecord_answers s h

end Sys2Proof.Machine
end

