-- ==== Sys2Proof/Proofs/Resolution.lean ====
section
/-! SUPPORT. How a request page is resolved (O23), and the reference mode each role gives (O24). -/

namespace Sys2Proof.Machine

/-! The four tests of R35, each where the tests before it have passed. -/

theorem resolve_badFrequency (o : Offer) (r : PageRequest) (hf : o.frequencies.has r.frequency = false) :
    resolve o r = (.badFrequency, none) := by
  simp [resolve, hf]

theorem resolve_badVoltage (o : Offer) (r : PageRequest) (hf : o.frequencies.has r.frequency = true)
    (hv : r.voltage ≠ o.voltage) : resolve o r = (.badVoltage, none) := by
  simp [resolve, hf, hv]

theorem resolve_badPower (o : Offer) (r : PageRequest) (hf : o.frequencies.has r.frequency = true)
    (hv : r.voltage = o.voltage) (hp : min r.wantedKw o.kw < r.minimumKw) : resolve o r = (.badPower, none) := by
  simp only [resolve, hf, hv, hp, Bool.not_true, Bool.false_eq_true, ne_eq, not_true_eq_false, if_true, if_false]

theorem resolve_badRole (o : Offer) (r : PageRequest) (hf : o.frequencies.has r.frequency = true)
    (hv : r.voltage = o.voltage) (hp : ¬ min r.wantedKw o.kw < r.minimumKw)
    (hr : roleOf r.preference o.preference = none) : resolve o r = (.badRole, none) := by
  simp only [resolve, hf, hv, hp, hr, Bool.not_true, Bool.false_eq_true, ne_eq, not_true_eq_false, if_false]

theorem resolve_compatible (o : Offer) (r : PageRequest) (hf : o.frequencies.has r.frequency = true)
    (hv : r.voltage = o.voltage) (hp : ¬ min r.wantedKw o.kw < r.minimumKw) (role : Role)
    (hr : roleOf r.preference o.preference = some role) :
    resolve o r =
      (.compatible,
        some { frequency := r.frequency, voltage := r.voltage, agreedKw := min r.wantedKw o.kw,
               minimumKw := r.minimumKw, role := role }) := by
  simp only [resolve, hf, hv, hp, hr, Bool.not_true, Bool.false_eq_true, ne_eq, not_true_eq_false, if_false]

/-- What a resolution can be: one of the four failures, or the terms of R35 with all four tests passed. -/
theorem resolve_cases (o : Offer) (r : PageRequest) :
    (resolve o r = (.badFrequency, none)) ∨ (resolve o r = (.badVoltage, none)) ∨
    (resolve o r = (.badPower, none) ∧ min r.wantedKw o.kw < r.minimumKw) ∨ (resolve o r = (.badRole, none)) ∨
    ∃ role, resolve o r =
      (.compatible,
        some { frequency := r.frequency, voltage := r.voltage, agreedKw := min r.wantedKw o.kw,
               minimumKw := r.minimumKw, role := role }) := by
  cases hf : o.frequencies.has r.frequency with
  | false => exact .inl (resolve_badFrequency o r hf)
  | true =>
    by_cases hv : r.voltage = o.voltage
    · by_cases hp : min r.wantedKw o.kw < r.minimumKw
      · exact .inr (.inr (.inl ⟨resolve_badPower o r hf hv hp, hp⟩))
      · cases hr : roleOf r.preference o.preference with
        | none => exact .inr (.inr (.inr (.inl (resolve_badRole o r hf hv hp hr))))
        | some role => exact .inr (.inr (.inr (.inr ⟨role, resolve_compatible o r hf hv hp role hr⟩)))
    · exact .inr (.inl (resolve_badVoltage o r hf hv))

/-- A wanted power is at least the minimum, so the power test fails by the offer alone (R35). -/
theorem offer_below_minimum_of_badPower (o : Offer) (r : PageRequest) (hm : r.minimumKw ≤ r.wantedKw)
    (h : (resolve o r).1 = .badPower) : o.kw < r.minimumKw := by
  rcases resolve_cases o r with e | e | ⟨_, hp⟩ | e | ⟨_, e⟩
  case inr.inr.inl => omega
  all_goals rw [e] at h; cases h

/-- 50 Hz is offered unless 60 Hz is offered alone. -/
theorem has_hz50_iff (o : OfferedFreqs) : o.has .hz50 = true ↔ o ≠ .only60 := by
  cases o <;> decide

/-- 60 Hz is offered unless 50 Hz is offered alone. -/
theorem has_hz60_iff (o : OfferedFreqs) : o.has .hz60 = true ↔ o ≠ .only50 := by
  cases o <;> decide

/-- Settles O23: the four tests one by one; where the power test fails, the wanted power is no reason. -/
theorem resolutionTestsInOrder : Obligations.ResolutionTestsInOrder := fun o r =>
  ⟨resolve_badFrequency o r, resolve_badVoltage o r, resolve_badPower o r,
   fun hf hv hp =>
     have hp' := Nat.not_lt.mpr hp
     ⟨resolve_badRole o r hf hv hp', resolve_compatible o r hf hv hp'⟩,
   offer_below_minimum_of_badPower o r, has_hz50_iff o.frequencies, has_hz60_iff o.frequencies⟩

/-! The reference's mode. -/

/-- A mode's rule at its entry sets that mode (R77 to R79). -/
@[simp] theorem Reference.enter_mode (f : Freq) (slip : Nat) (m : RefMode) (r : Reference) :
    (r.enter f slip m).mode = m := by
  cases m <;> rfl

/-- A reference that is given a mode has it (R76). -/
@[simp] theorem setMode_mode (b : Berth) (m : RefMode) (s : State) : ((setMode b m s).reference b).mode = m := by
  unfold setMode
  dsimp only
  split
  case isTrue same => exact same
  case isFalse =>
    split
    case isTrue stopped => simp [stopped, Reference.stop]
    case isFalse => split <;> simp

/-- A berth with an agreement gives its reference the mode of its role (R14). -/
theorem setModeByRole_mode (b : Berth) (s : State) (a : Agreement) (h : (s.berth b).agreement = some a) :
    ((setModeByRole b s).reference b).mode = a.role.mode := by
  unfold setModeByRole
  rw [h]
  exact setMode_mode ..

/-- At the entry to PARALLEL the reference takes the mode of the agreement's role (R14). -/
theorem enterParallel_mode (b : Berth) (s : State) (a : Agreement) (h : (s.berth b).agreement = some a) :
    ((enterParallel b s).reference b).mode = a.role.mode := by
  have held : ((stopSync b (setStage b .parallel s)).berth b).agreement = some a := by simp [h]
  simpa [enterParallel] using setModeByRole_mode b _ a held

/-- In SHORE_CARRYING the shore forms, whatever the role (R15). -/
theorem enterShoreCarrying_mode (b : Berth) (s : State) : ((enterShoreCarrying b s).reference b).mode = .form := by
  simp [enterShoreCarrying]

/-- Settles O24: the table's sixteen entries as they stand, and the mode a reference has once it is set. -/
theorem roleTable : Obligations.RoleTable := by
  refine ⟨rfl, rfl, rfl, rfl, rfl, rfl, rfl, rfl, rfl, rfl, rfl, rfl, rfl, rfl, rfl, rfl, fun b s => ⟨fun a h => ?_,
    enterShoreCarrying_mode b s⟩⟩
  rw [enterParallel_mode b s a h]
  exact ⟨fun role => role ▸ rfl, fun role => role ▸ rfl⟩

end Sys2Proof.Machine
end

