-- ==== Sys2Proof/Proofs/RequestPage.lean ====
section
/-! SUPPORT. What a Request Page does (O25): its payload read back, the exchange opened, the resolution acted on. -/

namespace Sys2Proof.Machine

/-! Rules of the operations an exchange uses. -/

/-- A flag's place lies within the flag set. -/
theorem shoreFlagIndex_lt (f : ShoreFlag) : shoreFlagIndex f < 64 := by
  have place (b : Berth) : berthNumber b ≤ 2 := by cases b <;> decide
  cases f <;> grind [shoreFlagIndex]

/-- Setting a flag's bit sets the flag. -/
theorem flagSet_or_flagBit (flags : BitVec 64) (i : Nat) (h : i < 64) : flagSet (flags ||| flagBit i) i = true := by
  have low : 63 - i < 64 := by omega
  simp [flagSet, flagBit, BitVec.getMsbD, h, low]

/-- A latched flag is set (R171). -/
theorem latch_sets (l : Link) (i : Nat) (s : State) (h : i < 64) :
    flagSet ((latch l i s).links.get l).flags i = true := by
  unfold latch
  dsimp only
  split
  case isTrue already => exact already
  case isFalse =>
    have set := flagSet_or_flagBit (s.links.get l).flags i h
    split <;> simp [sendNotice, set]

/-- A latched shore flag is set (R171). -/
@[simp] theorem latchShore_sets (f : ShoreFlag) (s : State) : (latchShore f s).shoreSet f = true :=
  latch_sets _ _ _ (shoreFlagIndex_lt f)

/-- A berth that enters a stage is in it. -/
@[simp] theorem setStage_stage (b : Berth) (g : Stage) (s : State) : ((setStage b g s).berth b).stage = g := by
  simp [setStage]

/-- A berth that takes or gives up an agreement has done so. -/
@[simp] theorem setAgreement_agreement (b : Berth) (a : Option Agreement) (s : State) :
    ((setAgreement b a s).berth b).agreement = a := by
  unfold setAgreement
  dsimp only
  split <;> simp

/-- What the agreement exchange leaves alone (ch. 02): beside `leavesOthers`, the berth's own authority and ship status,
the modules, the Import Budget, the ramps, the meters and the records. -/
def exchangeOnly (b : Berth) (s t : State) : Prop :=
  leavesOthers b s t ∧ (t.berth b).holder = (s.berth b).holder ∧ (t.berth b).status = (s.berth b).status ∧
    t.pool = s.pool ∧ t.budget = s.budget ∧ t.ramps = s.ramps ∧ t.meters = s.meters ∧ t.records = s.records

theorem leavesOthers.trans {b : Berth} {s t u : State} (hst : leavesOthers b s t) (htu : leavesOthers b t u) :
    leavesOthers b s u := by
  unfold leavesOthers sameLevels at *
  simp +contextual [hst, htu]

theorem exchangeOnly.trans {b : Berth} {s t u : State} (hst : exchangeOnly b s t) (htu : exchangeOnly b t u) :
    exchangeOnly b s u := by
  obtain ⟨others, fields⟩ := hst
  obtain ⟨others', fields'⟩ := htu
  exact ⟨others.trans others', by simp [fields, fields']⟩

theorem exchangeOnly_latchShore (b : Berth) (f : ShoreFlag) (s : State) : exchangeOnly b s (latchShore f s) := by
  simp [exchangeOnly, leavesOthers, sameLevels]

theorem exchangeOnly_modUnit (b : Berth) (f : AgreementUnit → AgreementUnit) (s : State) :
    exchangeOnly b s (s.modUnit b f) := by
  simp +contextual [exchangeOnly, leavesOthers, sameLevels]

theorem exchangeOnly_setAgreement (b : Berth) (a : Option Agreement) (s : State) :
    exchangeOnly b s (setAgreement b a s) := by
  simp +contextual [exchangeOnly, leavesOthers, sameLevels]

theorem exchangeOnly_setStage (b : Berth) (g : Stage) (s : State) : exchangeOnly b s (setStage b g s) := by
  simp +contextual [exchangeOnly, leavesOthers, sameLevels]

/-! The operations of the exchange, each by what it does to its berth. -/

/-- The pages end: what changes is the stage, the agreement, and the unit's phase and page wait (R41, R42). -/
theorem takeAgreement_spec (b : Berth) (s : State) :
    exchangeOnly b s (takeAgreement b s) ∧ ((takeAgreement b s).berth b).stage = .agreed ∧
      ((takeAgreement b s).berth b).agreement = ((s.unit b).terms.map fun t => t.agreement (s.unit b).pages) ∧
      (takeAgreement b s).unit b = { s.unit b with phase := .concluded, pageWait := none } := by
  refine ⟨((exchangeOnly_modUnit b _ s).trans (exchangeOnly_setAgreement ..)).trans (exchangeOnly_setStage ..), ?_⟩
  simp [takeAgreement, enterAgreed]

/-- Two changes of one Agreement Unit are one. -/
theorem State.modUnit_modUnit (s : State) (b : Berth) (f g : AgreementUnit → AgreementUnit) :
    (s.modUnit b f).modUnit b g = s.modUnit b fun u => g (f u) := by
  cases b <;> rfl

/-- An incompatible result leaves the exchange where the offer put it, with the shore's notice (R37). -/
theorem actOnResolution_incompatible (b : Berth) (more : Bool) (x : Resolution) (terms : Option Terms) (s : State)
    (h : x ≠ .compatible) :
    actOnResolution b more x terms s =
      latchShore (.negotiationIncompatible b)
        (s.modUnit b fun u => { u with resolution := some x, terms := terms, phase := .offered }) := by
  unfold actOnResolution
  cases x with
  | compatible => exact absurd rfl h
  | _ => simp only [State.modUnit_modUnit]

/-- A compatible page with more to come starts the page wait (R37). -/
theorem actOnResolution_more (b : Berth) (terms : Option Terms) (s : State) :
    actOnResolution b true .compatible terms s =
      s.modUnit b fun u =>
        { u with resolution := some .compatible, terms := terms, phase := .collecting,
                 pageWait := some (s.inSeconds 10) } := by
  cases b <;> rfl

/-- A compatible page with no more to come ends the pages (R37). -/
theorem actOnResolution_last (b : Berth) (terms : Option Terms) (s : State) :
    actOnResolution b false .compatible terms s =
      takeAgreement b (s.modUnit b fun u => { u with resolution := some .compatible, terms := terms }) :=
  rfl

/-- Acting on a result is the exchange's own affair, and keeps what the page has stored. -/
theorem actOnResolution_keeps (b : Berth) (more : Bool) (x : Resolution) (terms : Option Terms) (s : State) :
    exchangeOnly b s (actOnResolution b more x terms s) ∧
      ((actOnResolution b more x terms s).unit b).offer = (s.unit b).offer ∧
      ((actOnResolution b more x terms s).unit b).request = (s.unit b).request ∧
      ((actOnResolution b more x terms s).unit b).pages = (s.unit b).pages ∧
      ((actOnResolution b more x terms s).unit b).lastMark = (s.unit b).lastMark ∧
      ((actOnResolution b more x terms s).unit b).resolution = some x := by
  by_cases h : x = .compatible
  · subst h
    cases more with
    | true =>
      rw [actOnResolution_more]
      exact ⟨exchangeOnly_modUnit .., by simp⟩
    | false =>
      rw [actOnResolution_last]
      obtain ⟨only, -, -, unit⟩ := takeAgreement_spec b
        (s.modUnit b fun u => { u with resolution := some .compatible, terms := terms })
      exact ⟨(exchangeOnly_modUnit ..).trans only, by simp [unit]⟩
  · rw [actOnResolution_incompatible b more x terms s h]
    exact ⟨(exchangeOnly_modUnit ..).trans (exchangeOnly_latchShore ..), by simp⟩

/-! Taking a page. -/

/-- The state in which a Request Page is resolved: a berth in AGREED is back in NEGOTIATING, the page is stored, and the
pages, the last mark and the page wait of the exchange before are gone (R8, R34). -/
def openExchange (b : Berth) (r : PageRequest) (s : State) : State :=
  (if (s.berth b).stage = .agreed then enterNegotiatingFromAgreed b s else s).modUnit b fun u =>
    { u with request := some r, pages := [], lastMark := none, lastReply := none, pageWait := none }

theorem exchangeOnly_openExchange (b : Berth) (r : PageRequest) (s : State) :
    exchangeOnly b s (openExchange b r s) := by
  unfold openExchange
  split
  · exact (((exchangeOnly_setStage ..).trans (exchangeOnly_setAgreement ..)).trans (exchangeOnly_modUnit ..)).trans
      (exchangeOnly_modUnit ..)
  · exact exchangeOnly_modUnit ..

/-- What the opened exchange holds. -/
theorem openExchange_unit (b : Berth) (r : PageRequest) (s : State) :
    ((openExchange b r s).unit b).offer = (s.unit b).offer ∧ ((openExchange b r s).unit b).request = some r ∧
      ((openExchange b r s).unit b).pages = [] ∧ ((openExchange b r s).unit b).lastMark = none := by
  unfold openExchange
  split <;> simp [enterNegotiatingFromAgreed]

/-- The berth of an opened exchange is in NEGOTIATING; coming from AGREED, it has no agreement (R8). -/
theorem openExchange_berth (b : Berth) (r : PageRequest) (s : State) (hg : (s.berth b).stage.mayNegotiate = true) :
    ((openExchange b r s).berth b).stage = .negotiating ∧
      ((s.berth b).stage = .agreed → ((openExchange b r s).berth b).agreement = none) := by
  unfold openExchange
  split
  case isTrue => simp [enterNegotiatingFromAgreed]
  case isFalse other =>
    have negotiating : (s.berth b).stage = .negotiating := by
      cases g : (s.berth b).stage <;> simp_all [Stage.mayNegotiate]
    simp [negotiating]

/-- A page taken with an offer held is resolved against it, in the exchange it opens (R34). -/
theorem takePage_of_offer (b : Berth) (r : PageRequest) (s : State) (o : Offer) (ho : (s.unit b).offer = some o) :
    takePage b r s = actOnResolution b r.more (resolve o r).1 (resolve o r).2 (openExchange b r s) := by
  have held : ((openExchange b r s).unit b).offer = some o := (openExchange_unit b r s).1.trans ho
  unfold takePage
  dsimp only
  split
  case h_1 absent => cases held.symm.trans absent
  case h_2 present => cases held.symm.trans present; rfl

/-- What every taken page does: it is stored with its result, and nothing outside the exchange changes. -/
theorem takePage_keeps (b : Berth) (r : PageRequest) (s : State) (o : Offer) (ho : (s.unit b).offer = some o) :
    exchangeOnly b s (takePage b r s) ∧ ((takePage b r s).unit b).offer = some o ∧
      ((takePage b r s).unit b).request = some r ∧ ((takePage b r s).unit b).resolution = some (resolve o r).1 ∧
      ((takePage b r s).unit b).pages = [] ∧ ((takePage b r s).unit b).lastMark = none := by
  rw [takePage_of_offer b r s o ho]
  obtain ⟨only, offer, request, pages, lastMark, resolution⟩ :=
    actOnResolution_keeps b r.more (resolve o r).1 (resolve o r).2 (openExchange b r s)
  obtain ⟨offer', request', pages', lastMark'⟩ := openExchange_unit b r s
  exact ⟨(exchangeOnly_openExchange b r s).trans only, by rw [offer, offer', ho], by rw [request, request'],
    resolution, by rw [pages, pages'], by rw [lastMark, lastMark']⟩

/-- An incompatible result carries no terms (R35). -/
theorem resolve_terms_of_incompatible (o : Offer) (r : PageRequest) (h : (resolve o r).1 ≠ .compatible) :
    (resolve o r).2 = none := by
  rcases resolve_cases o r with e | e | ⟨e, _⟩ | e | ⟨_, e⟩
  case inr.inr.inr.inr => exact absurd (by rw [e]) h
  all_goals rw [e]

/-- The terms of a compatible result are those the page asked for (R35). -/
theorem resolve_terms_of_compatible (o : Offer) (r : PageRequest) (terms : Terms)
    (h : resolve o r = (.compatible, some terms)) :
    terms.frequency = r.frequency ∧ terms.voltage = r.voltage ∧ terms.minimumKw = r.minimumKw := by
  rcases resolve_cases o r with e | e | ⟨e, _⟩ | e | ⟨_, e⟩
  case inr.inr.inr.inr =>
    cases e.symm.trans h
    exact ⟨rfl, rfl, rfl⟩
  all_goals cases e.symm.trans h

/-- A page with an incompatible result (R37). -/
theorem takePage_incompatible (b : Berth) (r : PageRequest) (s : State) (o : Offer) (ho : (s.unit b).offer = some o)
    (hg : (s.berth b).stage.mayNegotiate = true) (h : (resolve o r).1 ≠ .compatible) :
    ((s.berth b).stage = .agreed → ((takePage b r s).berth b).agreement = none) ∧
      ((takePage b r s).berth b).stage = .negotiating ∧ ((takePage b r s).unit b).phase = .offered ∧
      ((takePage b r s).unit b).terms = none ∧ (takePage b r s).shoreSet (.negotiationIncompatible b) = true := by
  obtain ⟨stage, agreement⟩ := openExchange_berth b r s hg
  rw [takePage_of_offer b r s o ho, actOnResolution_incompatible _ _ _ _ _ h, resolve_terms_of_incompatible o r h]
  exact ⟨by simpa using agreement, by simp [stage]⟩

/-- A compatible page with more to come (R37). -/
theorem takePage_more (b : Berth) (r : PageRequest) (s : State) (o : Offer) (ho : (s.unit b).offer = some o)
    (hg : (s.berth b).stage.mayNegotiate = true) (terms : Terms) (h : resolve o r = (.compatible, some terms))
    (hm : r.more = true) :
    ((takePage b r s).berth b).stage = .negotiating ∧ ((takePage b r s).unit b).phase = .collecting ∧
      ((takePage b r s).unit b).terms = some terms ∧
      ((takePage b r s).unit b).pageWait = some (s.now + 10 * 10000000) := by
  obtain ⟨stage, -⟩ := openExchange_berth b r s hg
  have now : (openExchange b r s).now = s.now := (exchangeOnly_openExchange b r s).1.1
  rw [takePage_of_offer b r s o ho, h, hm, actOnResolution_more]
  simp [stage, State.inSeconds, now, ticksPerSecond]

/-- A compatible page with no more to come (R37, R42). -/
theorem takePage_last (b : Berth) (r : PageRequest) (s : State) (o : Offer) (ho : (s.unit b).offer = some o)
    (terms : Terms) (h : resolve o r = (.compatible, some terms)) (hm : r.more = false) :
    ((takePage b r s).berth b).stage = .agreed ∧ ((takePage b r s).unit b).phase = .concluded ∧
      ((takePage b r s).unit b).pageWait = none ∧
      ((takePage b r s).berth b).agreement =
        some { frequency := r.frequency, voltage := r.voltage, agreedKw := terms.agreedKw, minimumKw := r.minimumKw,
               role := terms.role, pages := [] } := by
  obtain ⟨-, -, pages, -⟩ := openExchange_unit b r s
  obtain ⟨frequency, voltage, minimum⟩ := resolve_terms_of_compatible o r terms h
  obtain ⟨-, stage, agreement, unit⟩ := takeAgreement_spec b
    ((openExchange b r s).modUnit b fun u => { u with resolution := some .compatible, terms := some terms })
  rw [takePage_of_offer b r s o ho, h, hm, actOnResolution_last]
  exact ⟨stage, by rw [unit], by rw [unit], by
    rw [agreement]; simp [Terms.agreement, pages, frequency, voltage, minimum]⟩

/-! The request around it. -/

@[simp] theorem freqOf_freqOctet (f : Freq) : freqOf (freqOctet f) = some f := by cases f <;> rfl

@[simp] theorem voltOf_voltOctet (v : Volt) : voltOf (voltOctet v) = some v := by cases v <;> rfl

@[simp] theorem prefOf_prefOctet (p : RolePref) : prefOf (prefOctet p) = some p := by cases p <;> rfl

/-- A number kept between two bounds. -/
theorem clampTo_eq_max_min (low high n : Nat) (h : low ≤ high) : clampTo low high n = max low (min high n) := by
  unfold clampTo
  split
  · omega
  · split <;> omega

/-- Two octets spell the word they were made of (R167). -/
theorem number_octets_word (w : BitVec 16) : number (octets 2 w.toNat) = w.toNat := by
  rw [number_octets]
  exact Nat.mod_eq_of_lt w.isLt

/-- The octets of a Request Page, in the order of R33. -/
def requestPageOctets (f : Freq) (v : Volt) (wanted minimum : BitVec 16) (pref : RolePref) (more : Bool) : List Byte :=
  [freqOctet f, voltOctet v] ++ octets 2 wanted.toNat ++ octets 2 minimum.toNat ++ [prefOctet pref] ++ flag more

/-- A Request Page read back: the wanted kW is clamped to 100 to 32,000, the minimum to the wanted kW (R33). -/
theorem parseRequestPage_octets (f : Freq) (v : Volt) (wanted minimum : BitVec 16) (pref : RolePref) (more : Bool) :
    let kw := max 100 (min 32000 wanted.toNat)
    let least := min kw minimum.toNat
    parseRequestPage (requestPageOctets f v wanted minimum pref more) =
      some ({ frequency := f, voltage := v, wantedKw := kw, minimumKw := least, preference := pref, more := more },
        decide (kw ≠ wanted.toNat) || decide (least ≠ minimum.toNat)) := by
  let p := requestPageOctets f v wanted minimum pref more
  have frequency : octet p 0 = freqOctet f := rfl
  have voltage : octet p 1 = voltOctet v := rfl
  have preference : octet p 6 = prefOctet pref := rfl
  have wantedKw : word16 p 2 = wanted.toNat := number_octets_word wanted
  have minimumKw : word16 p 4 = minimum.toNat := number_octets_word minimum
  have pages : yesNoOf (octet p 7) = some more := by cases more <;> rfl
  show parseRequestPage p = _
  simp only [parseRequestPage, frequency, voltage, preference, wantedKw, minimumKw, pages, freqOf_freqOctet,
    voltOf_voltOctet, prefOf_prefOctet, clampTo_eq_max_min 100 32000 _ (by decide)]

/-- A Request Page that passes its screening is taken and answered (R33, R34). -/
theorem exec_requestPage_of_accepted (b : Berth) (p : List Byte) (r : PageRequest) (clamped : Bool) (s : State)
    (o : Offer) (ha : s.asks (.ship b) b) (hg : (s.berth b).stage.mayNegotiate = true)
    (ho : (s.unit b).offer = some o) (hl : p.length = 8) (hp : parseRequestPage p = some (r, clamped)) :
    let t := takePage b r (heard (.ship b) s)
    exec (.requestPage (.ship b) p) s =
      .next (emit (.reply (.ship b) 0x06#8 (doneOr clamped) none (pageReply (t.unit b))) t) := by
  obtain ⟨hears, -, inService⟩ := ha
  intro t
  obtain ⟨⟨⟨-, -, -, -, settings, -, -, links, -⟩, -, -, -, budget, -⟩, -⟩ :=
    takePage_keeps b r (heard (.ship b) s) o ho
  have up : (t.links.get (.ship b)).up = true := by rw [links]; simp
  have length : payloadLength (0x06#8).toNat (.ship b) = some ((berthField (.ship b) b).length + p.length) := by
    rw [hl]; rfl
  refine congrArg Host.Outcome.next (validFrame_eq _ _ s _ hears ?_ budget settings)
  refine (withBerth_of_speaks _ _ b p _ _ (.inl (.inr rfl)) length).trans ?_
  refine (screened_of_ok _ _ b _ _ false _ (heard (.ship b) s) (fun _ => inService) hg (by simp)).trans ?_
  rw [hp]
  exact reply_of_up _ _ _ _ _ up

/-- Settles O25: the page read back is taken in an exchange of its own, and each of the three results is one case of
acting on it. -/
theorem requestPageIsResolvedAndActedOn : Obligations.RequestPageIsResolvedAndActedOn := by
  intro b f v wanted minimum pref more o s ha hg ho kw least r
  let s' := heard (.ship b) s
  have taken := exec_requestPage_of_accepted b _ r _ s o ha hg ho rfl
    (parseRequestPage_octets f v wanted minimum pref more)
  obtain ⟨⟨others, holder, status, pool, budget, ramps, meters, records⟩, offer, request, resolution, pages,
    lastMark⟩ := takePage_keeps b r s' o ho
  exact ⟨_, taken, others, offer, request, resolution, pages, lastMark, holder, status, pool, budget, ramps, meters,
    records, takePage_incompatible b r s' o ho hg, takePage_more b r s' o ho hg, takePage_last b r s' o ho,
    List.getLast?_concat⟩

end Sys2Proof.Machine
end

