-- ==== Sys2Proof/Proofs/Deferrals.lean ====
section
/-! SUPPORT. Law 10 (O59): which operations touch a berth's deferral count, and that every command keeps it at 4 or
below. -/

namespace Sys2Proof.Machine

/-- A part of an event that keeps Law 10 (R130). -/
def KeepsDeferrals (f : State → State) : Prop :=
  ∀ s, s.deferralsLawful → (f s).deferralsLawful

/-! The two ways to keep the law: leave every count alone, or answer for one berth's. -/

theorem deferralsLawful_of_same {s t : State} (h : s.deferralsLawful)
    (same : ∀ c, (t.sec c).deferrals = (s.sec c).deferrals) : t.deferralsLawful :=
  fun c => (same c).symm ▸ h c

theorem deferralsLawful_of_others {s t : State} (b : Berth) (h : s.deferralsLawful) (own : (t.sec b).deferrals ≤ 4)
    (others : ∀ c, c ≠ b → (t.sec c).deferrals = (s.sec c).deferrals) : t.deferralsLawful := by
  intro c
  by_cases hc : c = b
  · exact hc ▸ own
  · exact others c hc ▸ h c

theorem keepsDeferrals_of_same {f : State → State} (same : ∀ s c, ((f s).sec c).deferrals = (s.sec c).deferrals) :
    KeepsDeferrals f :=
  fun s h => deferralsLawful_of_same h (same s)

theorem KeepsDeferrals.comp {f g : State → State} (hf : KeepsDeferrals f) (hg : KeepsDeferrals g) :
    KeepsDeferrals fun s => f (g s) :=
  fun s h => hf _ (hg s h)

theorem deferralsLawful_ite {p : Prop} [Decidable p] {s t : State} (hs : s.deferralsLawful) (ht : t.deferralsLawful) :
    (if p then s else t).deferralsLawful := by
  split
  · exact hs
  · exact ht

theorem KeepsDeferrals.ite {p : State → Prop} [∀ s, Decidable (p s)] {f g : State → State} (hf : KeepsDeferrals f)
    (hg : KeepsDeferrals g) : KeepsDeferrals fun s => if p s then f s else g s :=
  fun s h => deferralsLawful_ite (hf s h) (hg s h)

theorem KeepsDeferrals.foldl {α : Type} {f : State → α → State} (hf : ∀ a, KeepsDeferrals fun s => f s a)
    (l : List α) : KeepsDeferrals fun s => l.foldl f s := by
  induction l with
  | nil => exact fun _ h => h
  | cons a rest ih => exact fun s h => ih _ (hf a s h)

/-! The entries that cancel the earth-path schedule, or renew it, leave a count of 0 (R129, R132). -/

@[simp] theorem cancelSchedule_deferrals (b : Berth) (s : State) : ((cancelSchedule b s).sec b).deferrals = 0 := by
  simp [cancelSchedule]

@[simp] theorem enterEnergising_deferrals (b : Berth) (s : State) : ((enterEnergising b s).sec b).deferrals = 0 := by
  simp [enterEnergising]

@[simp] theorem enterReleasing_deferrals (b : Berth) (s : State) : ((enterReleasing b s).sec b).deferrals = 0 := by
  simp [enterReleasing]

@[simp] theorem outletOpened_deferrals (b : Berth) (s : State) : ((outletOpened b s).sec b).deferrals = 0 := by
  simp [outletOpened]

@[simp] theorem enterTripped_deferrals (b : Berth) (x : TripCause) (s : State) :
    ((enterTripped b x s).sec b).deferrals = 0 := by
  simp [enterTripped, ite_views]

theorem keeps_enterReleasing (b : Berth) : KeepsDeferrals (enterReleasing b) :=
  fun _ h => deferralsLawful_of_others b h (by simp) fun c hc => by simp [hc]

theorem keeps_outletOpened (b : Berth) : KeepsDeferrals (outletOpened b) :=
  fun _ h => deferralsLawful_of_others b h (by simp) fun c hc => by simp [hc]

theorem keeps_enterEnergising (b : Berth) : KeepsDeferrals (enterEnergising b) :=
  fun _ h => deferralsLawful_of_others b h (by simp) fun c hc => by simp [hc]

theorem keeps_endConnection (b : Berth) (cause : EndCause) : KeepsDeferrals (endConnection b cause) :=
  keepsDeferrals_of_same (by simp)

theorem keeps_openOutletSeparating (b : Berth) : KeepsDeferrals (openOutletSeparating b) :=
  KeepsDeferrals.ite (p := fun s => (decide ((s.sec b).outletCommand = .closed) &&
      decide ((s.sec b).outletAux = .opened)) = true)
    ((keeps_outletOpened b).comp (keepsDeferrals_of_same (by simp))) (keepsDeferrals_of_same (by simp))

theorem keeps_enterSeparating (b : Berth) (x : SeparationCause) : KeepsDeferrals (enterSeparating b x) := by
  intro s h
  unfold enterSeparating
  extract_lets s1 s2 s3 s4 s5 s6
  have cleared : s6.deferralsLawful :=
    deferralsLawful_of_others b h (by simp [s6, s5, s4, s3]) fun c hc => by simp [s6, s5, s4, s3, s2, s1, hc]
  split
  · exact deferralsLawful_of_same cleared (by simp)
  · exact keeps_openOutletSeparating b _ (deferralsLawful_of_same cleared (by simp))

theorem keeps_enterTripped (b : Berth) (x : TripCause) : KeepsDeferrals (enterTripped b x) :=
  fun _ h => deferralsLawful_of_others b h (by simp) fun c hc => by simp [hc]

theorem keeps_raiseCause (b : Berth) (x : TripCause) : KeepsDeferrals (raiseCause b x) :=
  .ite (.ite (fun _ h => h) (keepsDeferrals_of_same (by simp))) (keeps_enterTripped b x)

theorem keeps_separationTest (b : Berth) : KeepsDeferrals (separationTest b) :=
  .ite (keeps_enterSeparating b .normal) fun _ h => h

theorem keeps_separationTestOrWait (b : Berth) : KeepsDeferrals (separationTestOrWait b) :=
  .ite ((keeps_separationTest b).comp (keepsDeferrals_of_same (by simp))) fun _ h => h

theorem keeps_enterRampingOut (b : Berth) (rate : Nat) : KeepsDeferrals (enterRampingOut b rate) :=
  (keeps_separationTestOrWait b).comp (keepsDeferrals_of_same (by simp [ite_views]))

/-! The events of the Protection Unit and of the blocks that move a stage. -/

/-- A deferral raises a count below 4; a check that begins leaves it (R130). -/
theorem keeps_checkDue (b : Berth) : KeepsDeferrals (checkDue b) := by
  intro s h
  refine deferralsLawful_of_others b h ?_ fun c hc => by simp [hc]
  unfold checkDue
  split
  · simpa using h b
  · split
    · simp only [State.sec_modSec_self]; omega
    · simpa using h b

theorem keeps_checkEnded (b : Berth) : KeepsDeferrals (checkEnded b) := by
  intro s h
  unfold checkEnded
  dsimp only
  split
  · exact deferralsLawful_of_others b h (by simp) fun c hc => by simp [hc]
  · exact keeps_raiseCause b _ _ (deferralsLawful_of_same h (by simp))

theorem keeps_emergencyStopChanged (b : Berth) (x : Contact) : KeepsDeferrals (emergencyStopChanged b x) := by
  cases x with
  | opened => exact keeps_raiseCause b _
  | closed => exact fun _ h => h

theorem keeps_plugPilotChanged (b : Berth) (x : Contact) : KeepsDeferrals (plugPilotChanged b x) := by
  intro s h
  unfold plugPilotChanged
  split
  · exact deferralsLawful_of_same h (by simp)
  · split
    · exact h
    · exact deferralsLawful_of_same h (by simp)
    · exact deferralsLawful_of_same h (by simp)
    · exact keeps_raiseCause b _ s h

theorem keeps_outletAuxChanged (b : Berth) (x : Contact) : KeepsDeferrals (outletAuxChanged b x) := by
  intro s h
  have idle : (s.modSec b fun c => { c with supervision := .idle }).deferralsLawful :=
    deferralsLawful_of_same h (by simp)
  unfold outletAuxChanged
  dsimp only
  split
  · exact deferralsLawful_ite (keeps_enterEnergising b _ idle) idle
  · exact h
  · unfold outletConfirmedOpen
    split
    · exact keeps_outletOpened b _ idle
    · exact deferralsLawful_of_same idle (by simp)
    · exact idle
  · exact h
  · refine deferralsLawful_ite (keeps_raiseCause b _ _ ?_) (deferralsLawful_of_same h (by simp))
    split
    · exact deferralsLawful_of_same h (by simp)
    · exact h
  · exact deferralsLawful_ite (keeps_raiseCause b _ s h) h

theorem keeps_couplerOpened (b : Berth) : KeepsDeferrals (couplerOpened b) := by
  intro s h
  have released : (s.modSec b fun c => { c with couplerOpen := none }).deferralsLawful :=
    deferralsLawful_of_same h (by simp)
  unfold couplerOpened
  dsimp only
  split
  · have ended := keeps_endConnection b (.separated ((s.berth b).separationCause.getD .normal)) _ released
    exact deferralsLawful_ite (keeps_openOutletSeparating b _ ended) ended
  · exact deferralsLawful_ite released (keeps_enterSeparating b _ _ released)
  · exact deferralsLawful_ite released (keeps_enterSeparating b _ _ released)
  · exact deferralsLawful_ite released (keeps_enterSeparating b _ _ released)
  · exact deferralsLawful_ite released (keeps_enterSeparating b _ _ released)
  · exact released

theorem keeps_couplerAuxChanged (b : Berth) (x : Contact) : KeepsDeferrals (couplerAuxChanged b x) := by
  cases x with
  | opened => exact keeps_couplerOpened b
  | closed =>
    refine keepsDeferrals_of_same fun s c => ?_
    unfold couplerAuxChanged couplerClosed
    dsimp only
    (repeat' split) <;> simp

theorem keeps_openPulseExpired (b : Berth) : KeepsDeferrals (openPulseExpired b) := by
  intro s h
  have released : (s.modSec b fun c => { c with couplerOpen := none }).deferralsLawful :=
    deferralsLawful_of_same h (by simp)
  exact deferralsLawful_ite (keeps_openOutletSeparating b _ (deferralsLawful_of_same released (by simp))) released

theorem keeps_firstReading (b : Berth) : KeepsDeferrals (firstReading b) := by
  intro s h
  unfold firstReading
  extract_lets c s1
  have loop : s1.deferralsLawful := deferralsLawful_ite (keeps_raiseCause b _ s h) h
  exact deferralsLawful_ite (keeps_raiseCause b _ s1 loop) loop

theorem keeps_shipLinkLost (b : Berth) : KeepsDeferrals (shipLinkLost b) := by
  intro s h
  unfold shipLinkLost
  extract_lets s1 s2
  have lost : s2.deferralsLawful := deferralsLawful_of_same h (by simp [s2, s1, ite_views])
  clear_value s2
  split
  · exact deferralsLawful_of_same lost (by simp)
  · exact deferralsLawful_of_same lost (by simp)
  · exact keeps_enterReleasing b _ lost
  · exact keeps_enterReleasing b _ lost
  · exact keeps_enterReleasing b _ lost
  · exact deferralsLawful_of_same lost (by simp)
  · exact deferralsLawful_of_same lost (by simp)
  · exact deferralsLawful_of_same lost (by simp)
  · exact lost

theorem keeps_closeFailed (b : Berth) : KeepsDeferrals (closeFailed b) := by
  intro s h
  unfold closeFailed
  extract_lets held s1 s2 s3 s4
  have settled : s3.deferralsLawful := deferralsLawful_of_same h (by simp [s3, s2, s1])
  split
  · refine deferralsLawful_of_same settled fun c => ?_
    split <;> simp [s4]
  · exact keeps_raiseCause b _ _ settled

theorem keeps_rampFrame (b : Berth) (power : BitVec 32) : KeepsDeferrals (rampFrame b power) := by
  intro s h
  unfold rampFrame
  split
  · exact deferralsLawful_of_same h (by simp)
  · exact keeps_separationTest b s h
  · exact h

theorem keeps_deliverFrame (values : PerBerth BusValues) (b : Berth) : KeepsDeferrals (deliverFrame values b) :=
  KeepsDeferrals.comp (f := fun s => qualifyFrame b (values.get b).outlet (overloadFrame b (values.get b).power s))
    (keepsDeferrals_of_same (by simp))
    ((keeps_rampFrame b _).comp (keepsDeferrals_of_same (by simp)))

theorem keeps_serveBerths (concerned : Berth → Bool) {f : Berth → State → State} (hf : ∀ b, KeepsDeferrals (f b)) :
    KeepsDeferrals (serveBerths concerned f) := by
  intro s h
  unfold serveBerths
  split
  · exact KeepsDeferrals.foldl hf _ s h
  · exact KeepsDeferrals.foldl hf _ _ h

end Sys2Proof.Machine
end

