-- ==== Sys2Proof/Proofs/DeferralsOfCommands.lean ====
section
/-! SUPPORT. Law 10 (O59): every request, expiry and report keeps each deferral count at 4 or below, and so does every
step. -/

namespace Sys2Proof.Machine

/-! What surrounds every command. -/

theorem keeps_settleExceeded : KeepsDeferrals settleExceeded :=
  keepsDeferrals_of_same (by simp)

theorem keeps_event {f : State → State} (hf : KeepsDeferrals f) : KeepsDeferrals (event f) :=
  .ite (p := fun s => s.resetHeld = true) (keepsDeferrals_of_same fun _ _ => rfl)
    (keeps_settleExceeded.comp (hf.comp (keepsDeferrals_of_same fun _ _ => rfl)))

theorem keeps_advanceTo (moment : Nat) : KeepsDeferrals (advanceTo moment) :=
  keepsDeferrals_of_same (by simp [advanceTo])

theorem keeps_timed (expiry : State → Option Nat) {f : State → State} (hf : KeepsDeferrals f) :
    KeepsDeferrals (timed expiry f) := by
  refine keeps_event fun s h => ?_
  split
  · exact h
  · exact hf _ (keeps_advanceTo _ s h)

theorem keeps_lineEvent (b : Berth) (l : InputLine) (same : Section → Bool) {move : Section → Section}
    {f : State → State} (hm : ∀ c, (move c).deferrals = c.deferrals) (hf : KeepsDeferrals f) :
    KeepsDeferrals (lineEvent b l same move f) := by
  refine .ite (p := fun s => same (s.sec b) = true) (keepsDeferrals_of_same fun _ _ => rfl)
    (.ite (p := fun s => s.resetHeld = true) (keepsDeferrals_of_same fun s c => ?_)
      (keeps_event (hf.comp (keepsDeferrals_of_same fun s c => ?_))))
  · exact State.sec_modSec_deferrals s b c move hm
  · simp [hm]

theorem keeps_frameArrived (l : Link) : KeepsDeferrals (frameArrived l) := by
  refine keepsDeferrals_of_same fun s c => ?_
  unfold frameArrived linkUpEffect
  dsimp only
  (repeat' split) <;> simp

theorem keeps_validFrame (l : Link) {f : State → State} (hf : KeepsDeferrals f) : KeepsDeferrals (validFrame l f) :=
  keeps_event (hf.comp (keeps_frameArrived l))

theorem keeps_refuse (l : Link) (code : Byte) (reason : Reason) : KeepsDeferrals (refuse l code reason) :=
  keepsDeferrals_of_same (by simp)

theorem keeps_reply (l : Link) (code : Byte) (status : Status) (items : List Byte) :
    KeepsDeferrals (reply l code status items) :=
  keepsDeferrals_of_same (by simp)

theorem keeps_withPlain (l : Link) (code : Byte) (payload : List Byte) {f : State → State} (hf : KeepsDeferrals f) :
    KeepsDeferrals (withPlain l code payload f) := by
  intro s h
  unfold withPlain
  split
  · exact keeps_refuse _ _ _ s h
  · exact deferralsLawful_ite (hf s h) (keeps_refuse _ _ _ s h)

theorem keeps_withBerth (l : Link) (code : Byte) (payload : List Byte) {f : Berth → List Byte → State → State}
    (hf : ∀ b p, KeepsDeferrals (f b p)) : KeepsDeferrals (withBerth l code payload f) := by
  refine keeps_withPlain l code payload fun s h => ?_
  split
  · exact hf _ _ s h
  · split
    · exact keeps_refuse _ _ _ s h
    · exact hf _ _ s h

theorem keeps_screened (l : Link) (code : Byte) (b : Berth) (service authority : Bool) (stageOk : State → Bool)
    {f : State → State} (hf : KeepsDeferrals f) :
    KeepsDeferrals fun s => screened l code b service (stageOk s) authority f s := by
  intro s h
  unfold screened
  have refused := fun reason => keeps_refuse l code reason s h
  exact deferralsLawful_ite (refused _) (deferralsLawful_ite (refused _) (deferralsLawful_ite (refused _) (hf s h)))

/-- A request that only answers keeps the law (R5). -/
theorem keeps_answer (l : Link) (code : Byte) (status : State → Status) (items : State → List Byte) :
    KeepsDeferrals fun s => reply l code (status s) (items s) s :=
  keepsDeferrals_of_same (by simp)

/-! The requests. -/

theorem keeps_takePage (b : Berth) (r : PageRequest) : KeepsDeferrals (takePage b r) := by
  refine keepsDeferrals_of_same fun s c => ?_
  unfold takePage actOnResolution takeAgreement
  dsimp only
  (repeat' split) <;> simp

theorem keeps_takeRequestPage (l : Link) (p : List Byte) : KeepsDeferrals (takeRequestPage l p) := by
  refine keeps_withBerth _ _ _ fun b p => keeps_screened _ _ _ _ _ _ fun s h => ?_
  split
  · exact keeps_refuse _ _ _ s h
  · exact keeps_reply _ _ _ _ _ (keeps_takePage _ _ s h)

theorem keeps_takeAgreement (b : Berth) : KeepsDeferrals (takeAgreement b) :=
  keepsDeferrals_of_same (by simp [takeAgreement])

theorem keeps_newPage (l : Link) (b : Berth) (page : Page) (mark more : Bool) :
    KeepsDeferrals (newPage l b page mark more) := by
  refine .ite (p := fun s => 4 ≤ (s.unit b).pages.length) (keeps_refuse _ _ _)
    ((keeps_reply _ _ _ _).comp fun s h => ?_)
  have stored := deferralsLawful_of_same h (t := s.modUnit b fun u =>
      { u with pages := u.pages ++ [page], lastMark := some mark, lastReply := some { mark := mark } }) (by simp)
  exact deferralsLawful_ite (deferralsLawful_of_same stored (by simp)) (keeps_takeAgreement b _ stored)

theorem keeps_takeContinuationPage (l : Link) (p : List Byte) : KeepsDeferrals (takeContinuationPage l p) := by
  refine keeps_withBerth _ _ _ fun b p =>
    keeps_screened _ _ _ _ _ (fun s => pageAccepted (s.berth b).stage (s.unit b) (octet p 1)) fun s h => ?_
  split
  · exact keeps_refuse _ _ _ s h
  · unfold markPage
    split
    · exact deferralsLawful_ite (keeps_refuse _ _ _ s h) (keeps_newPage _ _ _ _ _ s h)
    · exact deferralsLawful_ite (keeps_reply _ _ _ _ s h) (keeps_newPage _ _ _ _ _ s h)

theorem keeps_takeBerthDisable (l : Link) (p : List Byte) : KeepsDeferrals (takeBerthDisable l p) := by
  refine keeps_withBerth _ _ _ fun b _ =>
    keeps_screened _ _ _ _ _ _ ((keeps_reply _ _ _ _).comp (keepsDeferrals_of_same fun s c => ?_))
  unfold disableBerth
  dsimp only
  split <;> simp

theorem keeps_takeShipStatus (l : Link) (p : List Byte) : KeepsDeferrals (takeShipStatus l p) :=
  keeps_withBerth _ _ _ fun b p => keeps_screened _ _ _ _ _ _
    (.ite (keeps_refuse _ _ _)
      ((keeps_reply _ _ _ _).comp (keepsDeferrals_of_same (by simp [storeStatus, ite_views, ite_section]))))

theorem keeps_requestAuthority (l : Link) (b : Berth) : KeepsDeferrals (requestAuthority l b) := by
  refine keepsDeferrals_of_same fun s c => ?_
  unfold requestAuthority
  dsimp only
  (repeat' split) <;> simp

theorem keeps_releaseAuthority (l : Link) (b : Berth) : KeepsDeferrals (releaseAuthority l b) := by
  refine keepsDeferrals_of_same fun s c => ?_
  unfold releaseAuthority
  dsimp only
  (repeat' split) <;> simp

theorem keeps_takeConnect (l : Link) (p : List Byte) : KeepsDeferrals (takeConnect l p) :=
  keeps_withBerth _ _ _ fun b _ => keeps_screened _ _ _ _ _ (fun s => (s.berth b).mayConnect)
    ((keeps_reply _ _ _ _).comp (keepsDeferrals_of_same (by simp [connectBerth, ite_views, ite_section])))

theorem keeps_rampStep (b : Berth) (wanted rate : Nat) : KeepsDeferrals (rampStep b wanted rate) :=
  keepsDeferrals_of_same (by simp [rampStep, stepFields, ite_views])

theorem keeps_takeRampStep (l : Link) (p : List Byte) : KeepsDeferrals (takeRampStep l p) :=
  keeps_withBerth _ _ _ fun b _ => keeps_screened _ _ _ _ _ (fun s => (s.berth b).stage.mayStep) fun s h =>
    keeps_reply _ _ _ _ _ (keeps_rampStep b _ _ s h)

theorem keeps_takeDepart (l : Link) (p : List Byte) : KeepsDeferrals (takeDepart l p) :=
  keeps_withBerth _ _ _ fun b _ => keeps_screened _ _ _ _ _ (fun s => (s.berth b).mayDepart) fun s h =>
    keeps_reply _ _ _ _ _ (keeps_enterRampingOut b _ s h)

theorem keeps_abortBerth (b : Berth) : KeepsDeferrals (abortBerth b) := by
  intro s h
  unfold abortBerth
  split
  · exact keeps_enterReleasing b s h
  · exact keeps_enterReleasing b s h
  · exact keeps_enterReleasing b s h
  · exact keeps_enterRampingOut b _ s h
  · exact keeps_enterRampingOut b _ s h
  · exact deferralsLawful_of_same h (by simp)
  · exact h

theorem keeps_takeAbort (l : Link) (p : List Byte) : KeepsDeferrals (takeAbort l p) :=
  keeps_withBerth _ _ _ fun b _ => keeps_screened _ _ _ _ _ (fun s => (s.berth b).stage.mayAbort)
    (.ite (keeps_refuse _ _ _) ((keeps_reply _ _ _ _).comp (keeps_abortBerth b)))

theorem keeps_takeForceSeparate (l : Link) (p : List Byte) : KeepsDeferrals (takeForceSeparate l p) :=
  keeps_withBerth _ _ _ fun b _ => keeps_screened _ _ _ _ _ (fun s => (s.berth b).stage.mayForce)
    ((keeps_reply _ _ _ _).comp (keeps_enterSeparating b _))

theorem keeps_takeClearTrip (l : Link) (p : List Byte) : KeepsDeferrals (takeClearTrip l p) :=
  keeps_withBerth _ _ _ fun b _ => keeps_screened _ _ _ _ _ (fun s => decide ((s.berth b).stage = .tripped))
    (.ite (keeps_refuse _ _ _)
      ((keeps_reply _ _ _ _).comp (keepsDeferrals_of_same (by simp [clearTrip, ite_views]))))

theorem keeps_takeClearModuleFault (l : Link) (p : List Byte) : KeepsDeferrals (takeClearModuleFault l p) := by
  refine keeps_withPlain _ _ _ fun s h => ?_
  split
  · exact keeps_refuse _ _ _ s h
  · exact deferralsLawful_ite (keeps_reply _ _ _ _ _ (deferralsLawful_of_same h (by simp))) (keeps_refuse _ _ _ s h)

theorem keeps_takeSetBerthSettings (l : Link) (p : List Byte) : KeepsDeferrals (takeSetBerthSettings l p) := by
  refine keeps_withBerth _ _ _ fun b p s h => deferralsLawful_ite (keeps_refuse _ _ _ s h) ?_
  split
  · exact keeps_refuse _ _ _ s h
  · exact keeps_reply _ _ _ _ _ (deferralsLawful_of_same h fun _ => rfl)

theorem keeps_spacingChanged (old : State) : KeepsDeferrals (spacingChanged old) := by
  intro s h
  unfold spacingChanged
  extract_lets s1
  have followed : s1.deferralsLawful := KeepsDeferrals.foldl (fun _ => keepsDeferrals_of_same (by simp)) allModules s h
  exact deferralsLawful_ite (deferralsLawful_of_same followed (by simp)) (deferralsLawful_of_same followed (by simp))

theorem keeps_modSettings (g : Settings → Settings) : KeepsDeferrals fun s => s.modSettings g :=
  keepsDeferrals_of_same fun _ _ => rfl

theorem keeps_setPlantSetting (l : Link) (setting v : Nat) : KeepsDeferrals (setPlantSetting l setting v) := by
  intro s h
  have refused := fun reason => keeps_refuse l 0x1E#8 reason s h
  have taken : ∀ x {f : State → State}, (f s).deferralsLawful → (takeSetting l v x f s).deferralsLawful :=
    fun _ _ hf => keeps_reply _ _ _ _ _ hf
  have set := fun g => keeps_modSettings g s h
  unfold setPlantSetting
  split
  · exact deferralsLawful_ite (refused _) (taken _ (set _))
  · exact deferralsLawful_ite (refused _) (deferralsLawful_ite (refused _) (taken _ (set _)))
  · exact taken _ (keeps_spacingChanged s _ (set _))
  · exact taken _ (keeps_spacingChanged s _ (set _))
  · exact taken _ (deferralsLawful_of_same h fun c => by simp)
  · exact taken _ (set _)
  · exact refused _

theorem keeps_takeLoadTariffTable (l : Link) (p : List Byte) : KeepsDeferrals (takeLoadTariffTable l p) := by
  refine keeps_withPlain _ _ _ fun s h => ?_
  split
  · exact keeps_refuse _ _ _ s h
  · exact keeps_reply _ _ _ _ _ (deferralsLawful_of_same h fun _ => rfl)

theorem keeps_takeReleaseRecord (l : Link) (p : List Byte) : KeepsDeferrals (takeReleaseRecord l p) := by
  refine keeps_withPlain _ _ _ fun s h => ?_
  split
  · exact keeps_refuse _ _ _ s h
  · exact deferralsLawful_ite (keeps_reply _ _ _ _ _ (deferralsLawful_of_same h (by simp [popTariff])))
      (keeps_refuse _ _ _ s h)

theorem keeps_takeReleaseCopy (l : Link) (p : List Byte) : KeepsDeferrals (takeReleaseCopy l p) := by
  refine keeps_withBerth _ _ _ fun b p s h => ?_
  split
  · exact keeps_reply _ _ _ _ _ (deferralsLawful_of_same h (by simp [clearMissed]))
  · exact deferralsLawful_ite
      (keeps_reply _ _ _ _ _ (deferralsLawful_of_same h (by simp [popCopy, clearMissed]))) (keeps_refuse _ _ _ s h)

theorem keeps_takeReadBerth (l : Link) (p : List Byte) : KeepsDeferrals (takeReadBerth l p) := by
  refine keeps_withBerth _ _ _ fun b _ => keepsDeferrals_of_same fun s c => ?_
  dsimp only
  split <;> simp

theorem keeps_takeReadMeasurement (l : Link) (p : List Byte) : KeepsDeferrals (takeReadMeasurement l p) := by
  refine keeps_withPlain _ _ _ ?_
  cases l <;> exact keeps_answer _ _ _ _

/-! The resets: every count becomes 0 (R121), and the first readings may trip a berth. -/

theorem keeps_firstReadings : KeepsDeferrals firstReadings :=
  .foldl keeps_firstReading _

theorem released_deferralsLawful (s : State) : (released s).deferralsLawful := by
  intro c
  cases c <;> exact Nat.zero_le 4

theorem keeps_dischargeAll : KeepsDeferrals dischargeAll :=
  .foldl (fun _ => keepsDeferrals_of_same (by simp)) _

theorem keeps_takeResetLine : KeepsDeferrals takeResetLine := fun s _ =>
  keeps_settleExceeded _ (keeps_firstReadings _ (keeps_dischargeAll _ (released_deferralsLawful s)))

theorem keeps_takeResetLineAsserted : KeepsDeferrals takeResetLineAsserted := by
  refine keepsDeferrals_of_same fun s c => ?_
  cases c <;> rfl

theorem plantResetValues_deferralsLawful (s : State) : (plantResetValues s).deferralsLawful := by
  intro c
  cases c <;> exact Nat.zero_le 4

theorem keeps_takePlantReset (l : Link) (p : List Byte) : KeepsDeferrals (takePlantReset l p) :=
  keeps_withPlain _ _ _ (.ite (p := fun s => (allBerths.all fun b => (s.berth b).stage.resettable) = true)
    (fun _ _ => keeps_firstReadings _ (KeepsDeferrals.foldl (fun b => keepsDeferrals_of_same (by simp)) allBerths _
      (keeps_reply _ _ _ _ _ (plantResetValues_deferralsLawful _))))
    (keeps_refuse _ _ _))


/-- A berth's read keeps the law. -/
theorem keeps_berthRead (l : Link) (code : Byte) (payload : List Byte) (items : Berth → State → List Byte) :
    KeepsDeferrals (withBerth l code payload fun b _ s => reply l code .done (items b s) s) :=
  keeps_withBerth _ _ _ fun b _ => keeps_answer l code (fun _ => .done) (items b)

/-- A read of the plant keeps the law. -/
theorem keeps_plainRead (l : Link) (code : Byte) (payload : List Byte) (items : State → List Byte) :
    KeepsDeferrals (withPlain l code payload fun s => reply l code .done (items s) s) :=
  keeps_withPlain _ _ _ (keeps_answer l code (fun _ => .done) items)

theorem keeps_takeSeizeAuthority (l : Link) (p : List Byte) : KeepsDeferrals (takeSeizeAuthority l p) :=
  keeps_withBerth _ _ _ fun b _ => keeps_screened _ _ _ _ _ _
    ((keeps_reply _ _ _ _).comp (keepsDeferrals_of_same (by simp [seizeAuthority, ite_views])))

theorem keeps_takeRequest (l : Link) (code : Byte) (p : List Byte) : KeepsDeferrals (takeRequest l code p) := by
  intro s h
  unfold takeRequest
  split
  · exact keeps_withBerth _ _ _ (fun b _ => keepsDeferrals_of_same (by simp)) s h
  · exact keeps_takeBerthDisable l p s h
  · exact keeps_takeReadBerth l p s h
  · exact keeps_withBerth _ _ _ (fun b _ => keeps_screened _ _ _ _ _ _ (keepsDeferrals_of_same (by simp))) s h
  · exact keeps_takeShipStatus l p s h
  · exact keeps_takeRequestPage l p s h
  · exact keeps_takeContinuationPage l p s h
  · exact keeps_withBerth _ _ _ (fun b _ => keeps_screened _ _ _ _ _ _ (keeps_requestAuthority l b)) s h
  · exact keeps_withBerth _ _ _ (fun b _ => keeps_screened _ _ _ _ _ _ (keeps_releaseAuthority l b)) s h
  · exact keeps_takeSeizeAuthority l p s h
  · exact keeps_takeConnect l p s h
  · exact keeps_takeRampStep l p s h
  · exact keeps_withBerth _ _ _ (fun b _ => keeps_screened _ _ _ _ _ _ (keepsDeferrals_of_same (by simp))) s h
  · exact keeps_takeDepart l p s h
  · exact keeps_takeAbort l p s h
  · exact keeps_takeForceSeparate l p s h
  · exact keeps_takeClearTrip l p s h
  · exact keeps_takeClearModuleFault l p s h
  · exact keeps_plainRead l _ p _ s h
  · exact keeps_takeReadMeasurement l p s h
  · exact keeps_berthRead l _ p (fun b s => s.syncItems b) s h
  · exact keeps_berthRead l _ p (fun b s => s.rampItems b) s h
  · exact keeps_plainRead l _ p _ s h
  · exact keeps_berthRead l _ p (fun b s => s.protectionItems b) s h
  · exact keeps_berthRead l _ p (fun b s => meterItems (s.meter b)) s h
  · exact keeps_plainRead l _ p _ s h
  · exact keeps_plainRead l _ p (fun s => s.records.items) s h
  · exact keeps_withPlain _ _ _ (keepsDeferrals_of_same (by simp)) s h
  · exact keeps_takeSetBerthSettings l p s h
  · exact keeps_withPlain _ _ _ (keeps_setPlantSetting l _ _) s h
  · exact keeps_plainRead l _ p (fun s => s.settings.items) s h
  · exact keeps_takePlantReset l p s h
  · exact keeps_withPlain _ _ _ (keepsDeferrals_of_same (by simp)) s h
  · exact keeps_withPlain _ _ _ (keepsDeferrals_of_same (by simp)) s h
  · exact keeps_withPlain _ _ _ (keepsDeferrals_of_same (by simp)) s h
  · exact keeps_takeLoadTariffTable l p s h
  · exact keeps_plainRead l _ p (fun s => headItems s.records s.records.tariffQueue) s h
  · exact keeps_takeReleaseRecord l p s h
  · exact keeps_berthRead l _ p (fun b s => headItems s.records (s.records.copyQueues.get b) ++
      field 1 (s.records.missedCopies.get b)) s h
  · exact keeps_takeReleaseCopy l p s h
  · exact keeps_reply _ _ _ _ s h

theorem keeps_takeFrame (l : Link) (kind code : Byte) (p : List Byte) : KeepsDeferrals (takeFrame l kind code p) :=
  fun s h => deferralsLawful_ite (keeps_takeRequest l code p _ (keeps_frameArrived l s h)) (keeps_frameArrived l s h)

theorem keeps_receive (fuel : Nat) (l : Link) (octets : List Byte) : KeepsDeferrals (receive fuel l octets) := by
  induction fuel generalizing octets with
  | zero => exact fun _ h => h
  | succ fuel ih =>
    intro s h
    cases octets with
    | nil => exact h
    | cons o rest =>
      unfold receive
      refine deferralsLawful_ite ?_ (ih rest s h)
      split
      · exact ih rest s h
      · exact deferralsLawful_of_same h (by simp)
      · exact ih _ _ (keeps_settleExceeded _ (keeps_takeFrame _ _ _ _ s h))

theorem keeps_takeDiscarded (l : Link) (octets : List Byte) : KeepsDeferrals (takeDiscarded l octets) :=
  fun _ h => keeps_receive _ _ _ _ (deferralsLawful_of_same h (by simp))

/-! The timers, the modules' reports, the frames of the sample port. -/

theorem keeps_loseLink (l : Link) : KeepsDeferrals (loseLink l) := by
  intro s h
  have down : (s.modLink l fun k => { k with up := false, silence := none, outstanding := false }).deferralsLawful :=
    deferralsLawful_of_same h (by simp)
  cases l with
  | shore =>
    exact keepsDeferrals_of_same (f := latchShore .shoreLinkLost) (by simp) _
      (KeepsDeferrals.foldl (fun b => keepsDeferrals_of_same (f := releaseShore b) (by simp)) allBerths _ down)
  | ship b => exact keeps_shipLinkLost b _ down
  | tariff => exact keepsDeferrals_of_same (f := latchShore .tariffLinkLost) (by simp) _ down

theorem keeps_takeCharged (m : ModuleId) : KeepsDeferrals (takeCharged m) := by
  intro s h
  refine deferralsLawful_ite ?_ h
  split <;> exact deferralsLawful_of_same h (by simp)

theorem keeps_takeStrobe : KeepsDeferrals takeStrobe := by
  intro s h
  have missing : (takeMissing s).deferralsLawful := by
    have missed := fun f => deferralsLawful_of_same h (t := s.modPort f) (by simp)
    exact keeps_serveBerths _ (fun b => keepsDeferrals_of_same (by simp)) _
      (deferralsLawful_ite (keepsDeferrals_of_same (f := latchShore .samplePortSilent) (by simp) _ (missed _))
        (missed _))
  exact keepsDeferrals_of_same (f := fun s => s.modPort fun p =>
      { p with strobeCount := p.strobeCount + 1#8, awaited := some (p.strobeCount + 1#8), taken := false,
               strobeTime := p.nextStrobe, nextStrobe := p.nextStrobe + 100000 }) (by simp) _
    (deferralsLawful_ite missing h)

theorem keeps_takeBusFrame (os : List Byte) : KeepsDeferrals (takeBusFrame os) := by
  intro s h
  have port := fun f => deferralsLawful_of_same h (t := s.modPort f) (by simp)
  exact deferralsLawful_ite (deferralsLawful_ite (port _) (deferralsLawful_ite (port _)
    (keeps_serveBerths _ (keeps_deliverFrame _) _ (port _)))) (port _)

theorem keeps_rampAdvance (b : Berth) : KeepsDeferrals (rampAdvance b) := by
  intro s h
  unfold rampAdvance
  extract_lets s1 r s2 s3
  have next : s1.deferralsLawful := deferralsLawful_of_same h (by simp [s1])
  have stepped : s3.deferralsLawful := deferralsLawful_of_same next (by simp [s3, s2, ite_views])
  exact deferralsLawful_ite next (deferralsLawful_ite (keeps_separationTestOrWait b _ stepped) stepped)

theorem keeps_separationDelayed (b : Berth) : KeepsDeferrals (separationDelayed b) := fun _ h =>
  deferralsLawful_ite (deferralsLawful_of_same h (by simp)) (deferralsLawful_of_same h (by simp))

/-- Every command keeps Law 10, whatever state it finds. -/
theorem exec_keepsDeferrals (i : Instr) : ∃ f, KeepsDeferrals f ∧ ∀ s, exec i s = .next (f s) := by
  have request := fun l code p => keeps_validFrame l (keeps_takeRequest l code p)
  cases i with
  | berthEnable l p => exact ⟨_, request l 0x01#8 p, fun _ => rfl⟩
  | berthDisable l p => exact ⟨_, request l 0x02#8 p, fun _ => rfl⟩
  | readBerth l p => exact ⟨_, request l 0x03#8 p, fun _ => rfl⟩
  | readOffer l p => exact ⟨_, request l 0x04#8 p, fun _ => rfl⟩
  | shipStatus l p => exact ⟨_, request l 0x05#8 p, fun _ => rfl⟩
  | requestPage l p => exact ⟨_, request l 0x06#8 p, fun _ => rfl⟩
  | continuationPage l p => exact ⟨_, request l 0x07#8 p, fun _ => rfl⟩
  | requestAuthority l p => exact ⟨_, request l 0x08#8 p, fun _ => rfl⟩
  | releaseAuthority l p => exact ⟨_, request l 0x09#8 p, fun _ => rfl⟩
  | seizeAuthority l p => exact ⟨_, request l 0x0A#8 p, fun _ => rfl⟩
  | connect l p => exact ⟨_, request l 0x0B#8 p, fun _ => rfl⟩
  | rampStep l p => exact ⟨_, request l 0x0C#8 p, fun _ => rfl⟩
  | hold l p => exact ⟨_, request l 0x0D#8 p, fun _ => rfl⟩
  | depart l p => exact ⟨_, request l 0x0E#8 p, fun _ => rfl⟩
  | abort l p => exact ⟨_, request l 0x0F#8 p, fun _ => rfl⟩
  | forceSeparate l p => exact ⟨_, request l 0x10#8 p, fun _ => rfl⟩
  | clearTrip l p => exact ⟨_, request l 0x11#8 p, fun _ => rfl⟩
  | clearModuleFault l p => exact ⟨_, request l 0x12#8 p, fun _ => rfl⟩
  | readModulePool l p => exact ⟨_, request l 0x13#8 p, fun _ => rfl⟩
  | readMeasurement l p => exact ⟨_, request l 0x14#8 p, fun _ => rfl⟩
  | readSynchroniser l p => exact ⟨_, request l 0x15#8 p, fun _ => rfl⟩
  | readRamp l p => exact ⟨_, request l 0x16#8 p, fun _ => rfl⟩
  | readBudget l p => exact ⟨_, request l 0x17#8 p, fun _ => rfl⟩
  | readProtection l p => exact ⟨_, request l 0x18#8 p, fun _ => rfl⟩
  | readMeter l p => exact ⟨_, request l 0x19#8 p, fun _ => rfl⟩
  | readTariff l p => exact ⟨_, request l 0x1A#8 p, fun _ => rfl⟩
  | readRecordPool l p => exact ⟨_, request l 0x1B#8 p, fun _ => rfl⟩
  | setClock l p => exact ⟨_, request l 0x1C#8 p, fun _ => rfl⟩
  | setBerthSettings l p => exact ⟨_, request l 0x1D#8 p, fun _ => rfl⟩
  | setPlantSetting l p => exact ⟨_, request l 0x1E#8 p, fun _ => rfl⟩
  | readSettings l p => exact ⟨_, request l 0x1F#8 p, fun _ => rfl⟩
  | plantReset l p => exact ⟨_, request l 0x20#8 p, fun _ => rfl⟩
  | readNotices l p => exact ⟨_, request l 0x21#8 p, fun _ => rfl⟩
  | setNoticeMask l p => exact ⟨_, request l 0x22#8 p, fun _ => rfl⟩
  | keepAlive l p => exact ⟨_, request l 0x23#8 p, fun _ => rfl⟩
  | loadTariffTable l p => exact ⟨_, request l 0x24#8 p, fun _ => rfl⟩
  | fetchRecord l p => exact ⟨_, request l 0x25#8 p, fun _ => rfl⟩
  | releaseRecord l p => exact ⟨_, request l 0x26#8 p, fun _ => rfl⟩
  | fetchCopy l p => exact ⟨_, request l 0x27#8 p, fun _ => rfl⟩
  | releaseCopy l p => exact ⟨_, request l 0x28#8 p, fun _ => rfl⟩
  | unknownRequest l code p => exact ⟨_, keeps_event (keeps_takeFrame l 0#8 code p), fun _ => rfl⟩
  | nonRequestFrame l kind code p => exact ⟨_, keeps_event (keeps_takeFrame l kind code p), fun _ => rfl⟩
  | discardedFrame l os => exact ⟨_, keeps_event (keeps_takeDiscarded l os), fun _ => rfl⟩
  | resetLine => exact ⟨_, keeps_takeResetLine, fun _ => rfl⟩
  | powerOn => exact ⟨_, keeps_takeResetLine, fun _ => rfl⟩
  | linkLoss l => exact ⟨_, keeps_timed _ (keeps_loseLink l), fun _ => rfl⟩
  | authorityExpiry b =>
    exact ⟨_, keeps_timed _ (keepsDeferrals_of_same (f := expireAuthority b) (by simp [expireAuthority])), fun _ => rfl⟩
  | allocationTimeout b => exact ⟨_, keeps_timed _ (keeps_enterReleasing b), fun _ => rfl⟩
  | energiseTimeout b => exact ⟨_, keeps_timed _ (keeps_raiseCause b _), fun _ => rfl⟩
  | pageWaitExpiry b => exact ⟨_, keeps_timed _ (keeps_takeAgreement b), fun _ => rfl⟩
  | chargeStart => exact ⟨_, keeps_timed _ (keepsDeferrals_of_same (f := tryChargeStart) (by simp)), fun _ => rfl⟩
  | cycleTimePassed m => exact ⟨_, keeps_timed _ (keepsDeferrals_of_same (by simp)), fun _ => rfl⟩
  | chargeTimeout m =>
    exact ⟨_, keeps_timed _ (keepsDeferrals_of_same (f := enterFaulted m .chargeTimeout) (by simp)), fun _ => rfl⟩
  | idleHoldExpiry m => exact ⟨_, keeps_timed _ (keepsDeferrals_of_same (f := enterDark m) (by simp)), fun _ => rfl⟩
  | drainExpiry m => exact ⟨_, keeps_timed _ (keepsDeferrals_of_same (f := enterReady m) (by simp)), fun _ => rfl⟩
  | chargedReport m => exact ⟨_, keeps_event (keeps_takeCharged m), fun _ => rfl⟩
  | faultReport m code =>
    exact ⟨_, keeps_event (f := takeFault m code) (.ite (fun _ h => h) (keepsDeferrals_of_same (by simp))),
      fun _ => rfl⟩
  | referenceCrossing b => exact ⟨_, keeps_timed _ (keepsDeferrals_of_same (by simp)), fun _ => rfl⟩
  | zeroCrossing side b stamp =>
    exact ⟨_, keeps_event (keepsDeferrals_of_same (by simp [advanceToStamp, ite_views])), fun _ => rfl⟩
  | deadTimerExpiry side b =>
    exact ⟨_, keeps_timed _ (keepsDeferrals_of_same (f := declareDead side b) (by simp)), fun _ => rfl⟩
  | sampleStrobe => exact ⟨_, keeps_timed _ keeps_takeStrobe, fun _ => rfl⟩
  | busFrame strobe outlet shipBus power check => exact ⟨_, keeps_event (keeps_takeBusFrame _), fun _ => rfl⟩
  | clockAdvance =>
    exact ⟨_, keeps_timed _ (f := takeClockAdvance) (keepsDeferrals_of_same fun s c =>
      congrArg Section.deferrals (by simp [takeClockAdvance, State.sec])), fun _ => rfl⟩
  | syncTimeout b =>
    exact ⟨_, keeps_timed _ (keepsDeferrals_of_same (f := syncTimerExpired b) (by simp)), fun _ => rfl⟩
  | closeFailure b => exact ⟨_, keeps_timed _ (keeps_closeFailed b), fun _ => rfl⟩
  | rampAdvance b => exact ⟨_, keeps_timed _ (keeps_rampAdvance b), fun _ => rfl⟩
  | separationWaitExpiry b =>
    exact ⟨_, keeps_timed _ (keeps_separationDelayed b), fun _ => rfl⟩
  | overloadExpiry b =>
    exact ⟨_, keeps_timed _ ((keeps_raiseCause b _).comp (keepsDeferrals_of_same (by simp))), fun _ => rfl⟩
  | outletCloseTimeout b =>
    exact ⟨_, keeps_timed _ ((keeps_raiseCause b _).comp (keepsDeferrals_of_same (by simp))), fun _ => rfl⟩
  | outletOpenTimeout b =>
    exact ⟨_, keeps_timed _ ((keeps_raiseCause b _).comp (keepsDeferrals_of_same (by simp))), fun _ => rfl⟩
  | couplerOpenPulseExpiry b => exact ⟨_, keeps_timed _ (keeps_openPulseExpired b), fun _ => rfl⟩
  | earthCheckDue b => exact ⟨_, keeps_timed _ (keeps_checkDue b), fun _ => rfl⟩
  | earthCheckEnd b => exact ⟨_, keeps_timed _ (keeps_checkEnded b), fun _ => rfl⟩
  | graceExpiry b =>
    exact ⟨_, keeps_timed _ ((keeps_raiseCause b _).comp (keepsDeferrals_of_same (by simp))), fun _ => rfl⟩
  | emergencyStopChange b x =>
    exact ⟨_, keeps_lineEvent b _ _ (move := fun c => { c with emergencyStop := x }) (fun _ => rfl)
      (keeps_emergencyStopChanged b x),
      fun _ => rfl⟩
  | plugPilotChange b x =>
    exact ⟨_, keeps_lineEvent b _ _ (move := fun c => { c with plugPilot := x }) (fun _ => rfl)
      (keeps_plugPilotChanged b x),
      fun _ => rfl⟩
  | outletAuxChange b x =>
    exact ⟨_, keeps_lineEvent b _ _ (move := fun c => { c with outletAux := x }) (fun _ => rfl)
      (keeps_outletAuxChanged b x),
      fun _ => rfl⟩
  | couplerAuxChange b x =>
    exact ⟨_, keeps_lineEvent b _ _ (move := fun c => { c with couplerAux := x }) (fun _ => rfl)
      (keeps_couplerAuxChanged b x),
      fun _ => rfl⟩
  | earthResultChange b x =>
    exact ⟨_, keeps_lineEvent b _ _ (move := fun c => { c with earthResult := x }) (fun _ => rfl)
      (f := fun s => s) (fun _ h => h), fun _ => rfl⟩
  | resetLineAsserted => exact ⟨_, keeps_takeResetLineAsserted, fun _ => rfl⟩

/-- An idle step moves no section. -/
theorem keeps_idle : KeepsDeferrals idle := by
  refine keepsDeferrals_of_same fun s c => ?_
  unfold idle
  (repeat' split) <;> rfl

/-- Settles O59: a step is an idle one or a command, and both keep the law. -/
theorem everyStepKeepsDeferralsLawful : Obligations.EveryStepKeepsDeferralsLawful := by
  intro s t h hstep
  unfold step at hstep
  split at hstep
  · cases hstep
    exact keeps_idle s h
  · rename_i c rest _
    obtain ⟨f, keeps, hf⟩ := exec_keepsDeferrals c
    rw [hf] at hstep
    cases hstep
    exact keeps _ h

end Sys2Proof.Machine
end

