-- ==== Sys2Proof/Proofs/EarthChecks.lean ====
section
/-! SUPPORT. What a timer's expiry and a change of an input do in a quiet part, and the earth-path checks (O53). -/

namespace Sys2Proof.Machine

/-! Expiries: the time is carried forward, and the exceeded field is left as it is where the budget is. -/

@[simp] theorem atExpiry_now (moment : Nat) (s : State) : (atExpiry moment s).now = max s.now moment :=
  advanceTo_now moment (cleared s)

/-- What the coming of a timer's moment leaves alone. -/
@[simp] theorem atExpiry_frame (moment : Nat) (s : State) :
    (atExpiry moment s).budget = s.budget ∧ (atExpiry moment s).settings = s.settings ∧
    (∀ c, (atExpiry moment s).berth c = s.berth c) ∧ (∀ c, (atExpiry moment s).sec c = s.sec c) ∧
    (∀ c, (atExpiry moment s).ramp c = s.ramp c) :=
  ⟨rfl, rfl, fun _ => rfl, fun _ => rfl, fun _ => rfl⟩

/-- A running timer's expiry acts at its moment (log 3), and the exceeded field is settled (R112). -/
theorem timed_of_running (expiry : State → Option Nat) (f : State → State) (s : State) (moment : Nat) (hq : s.quiet)
    (h : expiry (cleared s) = some moment) : timed expiry f s = settleExceeded (f (atExpiry moment s)) := by
  unfold timed
  rw [event_of_released _ _ hq.1]
  rw [show expiry { s with sent := [] } = some moment from h]
  rfl

/-- An expiry whose effect keeps the budget and the settings: what it leaves is its own effect. -/
theorem timed_eq (expiry : State → Option Nat) (f : State → State) (s t : State) (moment : Nat) (hq : s.quiet)
    (h : expiry (cleared s) = some moment) (e : f (atExpiry moment s) = t) (hb : t.budget = s.budget)
    (hs : t.settings = s.settings) : timed expiry f s = t := by
  rw [timed_of_running expiry f s moment hq h, e, settleExceeded_of_honest]
  exact exceededHonest_of_same s t hb hs hq.2

/-! Updates of a section. -/

/-- An update of a berth's section is told by what it makes of that section. -/
theorem State.modSec_congr (s : State) (b : Berth) {f g : Section → Section} (h : f (s.sec b) = g (s.sec b)) :
    s.modSec b f = s.modSec b g := by
  unfold State.modSec
  rw [show f (s.sections.get b) = g (s.sections.get b) from h]

@[simp] theorem State.modSec_modSec (s : State) (b : Berth) (f g : Section → Section) :
    (s.modSec b f).modSec b g = s.modSec b fun c => g (f c) := by
  cases b <;> rfl

/-- The neighbours' two fields and a section do not touch (R98, R109). -/
theorem modSec_setCheckRunning (b : Berth) (x : Bool) (g : Section → Section) (s : State) :
    (setCheckRunning b x s).modSec b g = setCheckRunning b x (s.modSec b g) := rfl

/-! Earth-path checks. -/

/-- A check that finds its berth busy, deferred fewer than four times, is deferred by 15 s (R130). -/
theorem checkDue_deferred (b : Berth) (s : State) (n : (s.sec b).deferrals < 4)
    (busy : (s.berth b).stage = .synchronising ∨ (s.ramp b).state = .moving) :
    checkDue b s = s.modSec b fun c =>
      { c with deferrals := c.deferrals + 1, schedule := .waiting (s.inSeconds 15) } := by
  rw [checkDue, if_neg (by omega), if_pos busy]

/-- A check begins where its berth is not busy, or after four deferrals, which force it (R130, R131). -/
theorem checkDue_begins (b : Berth) (s : State)
    (h : 4 ≤ (s.sec b).deferrals ∨ ¬((s.berth b).stage = .synchronising ∨ (s.ramp b).state = .moving)) :
    checkDue b s = beginCheck b (decide (4 ≤ (s.sec b).deferrals)) s := by
  unfold checkDue
  by_cases forced : 4 ≤ (s.sec b).deferrals
  · rw [if_pos forced, decide_eq_true forced]
  · rw [if_neg forced, if_neg (h.resolve_left forced), decide_eq_false forced]

/-- A check that ends HEALTHY (R131). -/
theorem checkEnded_healthy (b : Berth) (s : State) (h : (s.sec b).earthResult = .healthy) :
    checkEnded b s = setCheckRunning b false (s.modSec b fun c =>
      { c with checkRequest := false, lastCheck := some .healthy, deferrals := 0,
               schedule := .waiting (s.inSeconds 60) }) := by
  unfold checkEnded
  simp only [h]
  rw [modSec_setCheckRunning, State.modSec_modSec]
  rfl

theorem earthCheckDue_acts (b : Berth) (due : Nat) (s t : State) (hq : s.quiet)
    (hw : (s.sec b).schedule = .waiting due) (e : checkDue b (atExpiry due s) = t) :
    exec (.earthCheckDue b) s = .next t := by
  refine congrArg Host.Outcome.next (timed_eq _ _ s t due hq ?_ e ?_ ?_)
  · simp only [waitingDue]
    rw [show (cleared s).sec b = s.sec b from rfl, hw]
  · rw [← e]; simp
  · rw [← e]; simp

theorem earthCheckEnd_acts (b : Berth) (ending : Nat) (forced : Bool) (s t : State) (hq : s.quiet)
    (hr : (s.sec b).schedule = .running ending forced) (e : checkEnded b (atExpiry ending s) = t)
    (hb : t.budget = s.budget) : exec (.earthCheckEnd b) s = .next t := by
  refine congrArg Host.Outcome.next (timed_eq _ _ s t ending hq ?_ e hb ?_)
  · simp only [endingDue]
    rw [show (cleared s).sec b = s.sec b from rfl, hr]
  · rw [← e]; simp

/-- Settles O53: a due check is deferred or begins, and one that ends HEALTHY comes due again. -/
theorem earthChecksAreDeferredRunAndRenewed : Obligations.EarthChecksAreDeferredRunAndRenewed := by
  constructor
  · intro b due s hq hw busy
    refine ⟨fun n hbusy => ?_, fun h => ?_⟩
    · have deferred := checkDue_deferred b (atExpiry due s) n hbusy
      refine earthCheckDue_acts b due s _ hq hw (deferred.trans (State.modSec_congr _ b ?_))
      simp [State.inSeconds, ticksPerSecond]
    · have begins := checkDue_begins b (atExpiry due s) h
      refine earthCheckDue_acts b due s _ hq hw (begins.trans ?_)
      simp [beginCheck, setCheckRunning, State.inSeconds, ticksPerSecond]
  · intro b ending forced s hq hr healthy
    have ends := checkEnded_healthy b (atExpiry ending s) healthy
    refine earthCheckEnd_acts b ending forced s _ hq hr (ends.trans ?_) rfl
    simp [setCheckRunning, State.inSeconds, ticksPerSecond]

end Sys2Proof.Machine
end

