-- ==== Sys2Proof/Proofs/Notices.lean ====
section
/-! SUPPORT. What no stage entry undoes of a berth's change flags and of their notice; what the Module Pool Manager
leaves of a section (O49 to O52). -/

namespace Sys2Proof.Machine

/-! The section of a berth out of ALLOCATING is left alone by the Module Pool Manager: only a completed allocation
commands an outlet closed (R64). -/

@[simp] theorem checkComplete_section (b c : Berth) (s : State) (h : (s.berth c).stage ≠ .allocating) :
    (checkComplete b s).sec c = s.sec c := by
  unfold checkComplete
  split
  case isTrue complete =>
    have allocating : (s.berth b).stage = .allocating := by simp_all [State.allocationComplete]
    have other : c ≠ b := fun e => h (e ▸ allocating)
    unfold commandOutletClosed
    split <;> simp [other]
  case isFalse => rfl

@[simp] theorem grantReady_section (b c : Berth) (l : List ModuleId) (s : State)
    (h : (s.berth c).stage ≠ .allocating) : (grantReady b l s).sec c = s.sec c := by
  unfold grantReady
  induction l generalizing s with
  | nil => rfl
  | cons m rest ih =>
    rw [List.foldl_cons, ih _ (by simpa using h)]
    simp [h]

@[simp] theorem examine_section (fuel : Nat) (c : Berth) (s : State) (h : (s.berth c).stage ≠ .allocating) :
    (examine fuel s).sec c = s.sec c := by
  induction fuel generalizing s with
  | zero => simp [examine]
  | succ fuel ih =>
    cases hq : s.pool.queue with
    | nil => simp [examine, hq]
    | cons e rest =>
      rw [examine_succ fuel s e rest hq]
      dsimp only
      split
      · rw [ih _ (by simpa using h)]
        simp [h]
      · rfl

@[simp] theorem removeEntry_section (b c : Berth) (s : State) (h : (s.berth c).stage ≠ .allocating) :
    (removeEntry b s).sec c = s.sec c := by
  unfold removeEntry examineQueue
  split
  · rw [(show ∀ t, (tryChargeStart t).sec c = t.sec c by simp), examine_section _ _ _ (by simpa using h)]
    rfl
  · rfl

@[simp] theorem withdrawAll_section (l : List ModuleId) (c : Berth) (s : State)
    (h : (s.berth c).stage ≠ .allocating) : (withdrawAll l s).sec c = s.sec c := by
  unfold withdrawAll
  induction l generalizing s with
  | nil => rfl
  | cons m rest ih =>
    rw [List.foldl_cons, ih _ (by simpa using h)]
    rw [withdrawOne, examine_section _ _ _ (by simpa using h)]
    simp

@[simp] theorem withdrawWaiting_section (b c : Berth) (s : State) (h : (s.berth c).stage ≠ .allocating) :
    (withdrawWaiting b s).sec c = s.sec c := by
  unfold withdrawWaiting
  dsimp only
  split
  · rfl
  · rw [← withdrawAll]
    simp [h]

@[simp] theorem withdraw_section (b c : Berth) (draining : Bool) (s : State) (h : (s.berth c).stage ≠ .allocating) :
    (withdraw b draining s).sec c = s.sec c := by
  unfold withdraw
  dsimp only
  split
  · rw [← drainAll]
    simp [h]
  · simp [h]

/-! Notices: latching one flag leaves the others. -/

/-- Setting a flag's bit leaves every other flag. -/
theorem flagSet_or_flagBit_of_ne (flags : BitVec 64) (i j : Nat) (hi : i < 64) (hj : j < 64) (h : j ≠ i) :
    flagSet (flags ||| flagBit i) j = flagSet flags j := by
  have hne : 63 - j ≠ 63 - i := by omega
  have low : 63 - j < 64 := by omega
  simp [flagSet, flagBit, BitVec.getMsbD, hj, low]
  omega

/-- Latching a flag leaves every other flag of its link, and every flag of the other links (R171). -/
theorem latch_other_flag (l k : Link) (i j : Nat) (s : State) (hi : i < 64) (hj : j < 64) (h : k ≠ l ∨ j ≠ i) :
    flagSet ((latch l i s).links.get k).flags j = flagSet (s.links.get k).flags j := by
  unfold latch
  dsimp only
  split
  · rfl
  · by_cases e : k = l
    · subst e
      have kept := flagSet_or_flagBit_of_ne (s.links.get k).flags i j hi hj (h.resolve_left fun ne => ne rfl)
      split <;> simp [sendNotice, kept]
    · split <;> simp [sendNotice, State.modLink_get, e]

/-- The place of INPUT_CHANGE is no other flag's (R171). -/
theorem inputChange_place (f : ShoreFlag) (c : Berth) (h : f ≠ .inputChange c) :
    shoreFlagIndex (.inputChange c) ≠ shoreFlagIndex f := by
  have place (b : Berth) : berthNumber b ≤ 2 := by cases b <;> decide
  have hc := place c
  cases f with
  | inputChange b =>
    have other : b ≠ c := fun e => h (e ▸ rfl)
    revert other
    cases b <;> cases c <;> decide
  | stage b | authorityWanted b | negotiationIncompatible b | syncTimeout b | closeFailed b | trip b | shipLinkLost b
  | shipBusDead b | overloadWarn b | separationDelayed b =>
    have hb := place b
    simp only [shoreFlagIndex]
    omega
  | _ =>
    simp only [shoreFlagIndex]
    omega

/-- A berth's change flags and its INPUT_CHANGE notice (R122). -/
def State.noted (s : State) (b : Berth) : ChangeFlags × Bool :=
  ((s.sec b).flags, s.shoreSet (.inputChange b))

theorem noted_of_same {s t : State} (b : Berth) (links : t.links = s.links)
    (flags : (t.sec b).flags = (s.sec b).flags) : t.noted b = s.noted b := by
  unfold State.noted State.shoreSet
  rw [links, flags]

theorem latch_noted (l : Link) (i : Nat) (s : State) (c : Berth) (hi : i < 64)
    (h : Link.shore ≠ l ∨ shoreFlagIndex (.inputChange c) ≠ i) : (latch l i s).noted c = s.noted c := by
  unfold State.noted State.shoreSet
  rw [latch_other_flag l .shore i _ s hi (shoreFlagIndex_lt _) h]
  simp

@[simp] theorem latchShore_noted (f : ShoreFlag) (s : State) (c : Berth) (h : f ≠ .inputChange c) :
    (latchShore f s).noted c = s.noted c :=
  latch_noted _ _ s c (shoreFlagIndex_lt f) (.inr (inputChange_place f c h))

@[simp] theorem latchShip_noted (b : Berth) (f : ShipFlag) (s : State) (c : Berth) :
    (latchShip b f s).noted c = s.noted c :=
  latch_noted _ _ s c (by cases f <;> decide) (.inl (by simp))

@[simp] theorem latchTariff_noted (f : TariffFlag) (s : State) (c : Berth) : (latchTariff f s).noted c = s.noted c :=
  latch_noted _ _ s c (by cases f <;> decide) (.inl (by simp))

/-! Operations that leave the links and the change flags alone. -/

@[simp] theorem State.modBerth_noted (b c : Berth) (f : BerthRecord → BerthRecord) (s : State) :
    (s.modBerth b f).noted c = s.noted c := rfl

@[simp] theorem State.modUnit_noted (b c : Berth) (f : AgreementUnit → AgreementUnit) (s : State) :
    (s.modUnit b f).noted c = s.noted c := rfl

@[simp] theorem State.modSync_noted (b c : Berth) (f : Synchroniser → Synchroniser) (s : State) :
    (s.modSync b f).noted c = s.noted c := rfl

@[simp] theorem State.modRamp_noted (b c : Berth) (f : Ramp → Ramp) (s : State) :
    (s.modRamp b f).noted c = s.noted c := rfl

@[simp] theorem State.modMeter_noted (b c : Berth) (f : Meter → Meter) (s : State) :
    (s.modMeter b f).noted c = s.noted c := rfl

@[simp] theorem State.modRecords_noted (c : Berth) (f : RecordPool → RecordPool) (s : State) :
    (s.modRecords f).noted c = s.noted c := rfl

/-- An update of a section that keeps its change flags. -/
@[simp] theorem State.modSec_noted (b c : Berth) (f : Section → Section) (s : State)
    (h : (f (s.sec b)).flags = (s.sec b).flags) : (s.modSec b f).noted c = s.noted c := by
  refine noted_of_same c rfl ?_
  by_cases e : c = b
  · subst e
    simpa using h
  · simp [e]

@[simp] theorem setSlot_noted (i : SlotId) (x : Slot) (c : Berth) (s : State) : (setSlot i x s).noted c = s.noted c :=
  rfl

@[simp] theorem sendOn_noted (l : Link) (x : Sent) (c : Berth) (s : State) : (sendOn l x s).noted c = s.noted c :=
  noted_of_same c (by simp) (by simp)

@[simp] theorem setMode_noted (b c : Berth) (m : RefMode) (s : State) : (setMode b m s).noted c = s.noted c :=
  noted_of_same c (by simp) (by simp)

@[simp] theorem setModeByRole_noted (b c : Berth) (s : State) : (setModeByRole b s).noted c = s.noted c :=
  noted_of_same c (by simp) (by simp)

@[simp] theorem modInput_noted (d : BusSide) (b c : Berth) (f : CaptureRecord → CaptureRecord) (s : State) :
    (s.modInput d b f).noted c = s.noted c :=
  noted_of_same c (by simp) (by simp)

@[simp] theorem commandOutletOpen_noted (b c : Berth) (s : State) : (commandOutletOpen b s).noted c = s.noted c := by
  unfold commandOutletOpen
  split <;> simp

@[simp] theorem beginOpenPulse_noted (b c : Berth) (s : State) : (beginOpenPulse b s).noted c = s.noted c := by
  simp [beginOpenPulse]

@[simp] theorem cancelSchedule_noted (b c : Berth) (s : State) : (cancelSchedule b s).noted c = s.noted c := by
  simp [cancelSchedule, setCheckRunning]

@[simp] theorem stopGrace_noted (b c : Berth) (s : State) : (stopGrace b s).noted c = s.noted c := by
  simp [stopGrace]

@[simp] theorem clearOverload_noted (b c : Berth) (s : State) : (clearOverload b s).noted c = s.noted c := by
  simp [clearOverload]

@[simp] theorem stopSync_noted (b c : Berth) (s : State) : (stopSync b s).noted c = s.noted c := rfl

@[simp] theorem dropAuthority_noted (b c : Berth) (s : State) : (dropAuthority b s).noted c = s.noted c := rfl

@[simp] theorem clearRamp_noted (b c : Berth) (s : State) : (clearRamp b s).noted c = s.noted c :=
  noted_of_same c (by simp) (by simp)

@[simp] theorem dropWaiting_noted (b c : Berth) (s : State) : (dropWaiting b s).noted c = s.noted c :=
  noted_of_same c (by simp) (by simp)

@[simp] theorem clearReservation_noted (b c : Berth) (s : State) : (clearReservation b s).noted c = s.noted c :=
  noted_of_same c (by simp) (by simp)

@[simp] theorem beginConnection_noted (b c : Berth) (s : State) : (beginConnection b s).noted c = s.noted c := rfl

@[simp] theorem withdraw_noted (b c : Berth) (draining : Bool) (s : State) (h : (s.berth c).stage ≠ .allocating) :
    (withdraw b draining s).noted c = s.noted c :=
  noted_of_same c (by simp) (by rw [withdraw_section _ _ _ _ h])

@[simp] theorem settleExceeded_noted (c : Berth) (s : State) : (settleExceeded s).noted c = s.noted c := by
  unfold settleExceeded
  dsimp only
  split
  · rfl
  · split
    · exact latchShore_noted _ _ c (by simp)
    · rfl

/-! Operations that latch other flags. -/

@[simp] theorem setStage_noted (b c : Berth) (g : Stage) (s : State) : (setStage b g s).noted c = s.noted c := by
  simp [setStage]

@[simp] theorem declareDead_noted (d : BusSide) (b c : Berth) (s : State) :
    (declareDead d b s).noted c = s.noted c := by
  unfold declareDead
  dsimp only
  (repeat' split) <;> simp

@[simp] theorem moveDeadTimer_noted (n : Nat) (d : BusSide) (b c : Berth) (s : State) :
    (moveDeadTimer n d b s).noted c = s.noted c := by
  unfold moveDeadTimer
  dsimp only
  (repeat' split) <;> simp

@[simp] theorem setAgreement_noted (b c : Berth) (a : Option Agreement) (s : State) :
    (setAgreement b a s).noted c = s.noted c := by
  unfold setAgreement
  dsimp only
  split <;> simp

@[simp] theorem testPoolLow_noted (c : Berth) (s : State) : (testPoolLow s).noted c = s.noted c := by
  unfold testPoolLow
  dsimp only
  (repeat' split) <;> simp

@[simp] theorem joinTariffQueue_noted (r : RecordRef) (c : Berth) (s : State) :
    (joinTariffQueue r s).noted c = s.noted c := by
  unfold joinTariffQueue
  dsimp only
  split <;> simp

@[simp] theorem lowerCount_noted (r : RecordRef) (c : Berth) (s : State) : (lowerCount r s).1.noted c = s.noted c :=
  noted_of_same c (by simp) (by simp)

@[simp] theorem dropOldest_noted (b c : Berth) (s : State) : (dropOldest b s).1.noted c = s.noted c :=
  noted_of_same c (by simp) (by simp)

@[simp] theorem raiseCount_noted (r : RecordRef) (c : Berth) (s : State) : (raiseCount r s).noted c = s.noted c :=
  noted_of_same c (by simp) (by simp)

@[simp] theorem joinCopyQueue_noted (b c : Berth) (r : RecordRef) (s : State) :
    (joinCopyQueue b r s).noted c = s.noted c := by
  unfold joinCopyQueue
  dsimp only
  split <;> simp

@[simp] theorem fillSlots_noted (n : BitVec 16) (r : PoolRecord) (l : List SlotId) (c : Berth) (s : State) :
    (fillSlots n r l s).noted c = s.noted c :=
  noted_of_same c (by simp) (by simp)

@[simp] theorem beginRecord_noted (r : PoolRecord) (ref : RecordRef) (c : Berth) (s : State) :
    (beginRecord r ref s).noted c = s.noted c := by
  simp [beginRecord]

@[simp] theorem poolWork_noted (fuel : Nat) (tasks : List PoolTask) (c : Berth) (s : State) :
    (poolWork fuel tasks s).noted c = s.noted c := by
  induction fuel generalizing tasks s with
  | zero => cases tasks <;> rfl
  | succ fuel ih =>
    match tasks with
    | [] => simp
    | .release i :: rest =>
      rw [poolWork_release]
      dsimp only
      (repeat' split) <;> simp [ih]
    | .join b ref :: rest =>
      rw [poolWork_join]
      split <;> simp [ih]

@[simp] theorem releaseSlots_noted (work : List SlotId) (c : Berth) (s : State) :
    (releaseSlots work s).noted c = s.noted c := poolWork_noted _ _ c s

@[simp] theorem writeRecord_noted (r : PoolRecord) (first : SlotId) (second : Option SlotId) (c : Berth) (s : State) :
    (writeRecord r first second s).noted c = s.noted c := by
  simp [writeRecord_eq]

@[simp] theorem returnReservation_noted (b c : Berth) (s : State) : (returnReservation b s).noted c = s.noted c := by
  simp [returnReservation]

@[simp] theorem writeSummary_noted (b c : Berth) (r : SummaryRecord) (s : State) :
    (writeSummary b r s).noted c = s.noted c := by
  unfold writeSummary
  dsimp only
  split <;> simp

@[simp] theorem releaseEntry_noted (r : RecordRef) (c : Berth) (s : State) :
    (releaseEntry r s).noted c = s.noted c := by
  simp [releaseEntry_eq]

@[simp] theorem removeCopies_noted (b : Berth) (queue : List RecordRef) (c : Berth) (s : State) :
    (removeCopies b queue s).noted c = s.noted c := by
  induction queue generalizing s with
  | nil => rfl
  | cons r rest ih => simp [removeCopies, ih]

@[simp] theorem emptyCopies_noted (b c : Berth) (s : State) : (emptyCopies b s).noted c = s.noted c := by
  simp [emptyCopies]

@[simp] theorem closeFinal_noted (b c : Berth) (tripped : Bool) (s : State) :
    (closeFinal b tripped s).noted c = s.noted c := by
  unfold closeFinal
  dsimp only
  (repeat' split) <;> simp [markInterval, closeInterval]

@[simp] theorem endConnection_noted (b c : Berth) (cause : EndCause) (s : State) :
    (endConnection b cause s).noted c = s.noted c := by
  unfold endConnection
  dsimp only
  (repeat' split) <;> simp

/-! The stage entries. -/

@[simp] theorem enterNegotiatingFromVacant_noted (b c : Berth) (s : State) :
    (enterNegotiatingFromVacant b s).noted c = s.noted c := by
  simp [enterNegotiatingFromVacant]

@[simp] theorem passOn_noted (b c : Berth) (s : State) : (passOn b s).noted c = s.noted c := by
  unfold passOn
  dsimp only
  split <;> simp

@[simp] theorem enterVacant_noted (b c : Berth) (s : State) : (enterVacant b s).noted c = s.noted c := by
  simp [enterVacant]

@[simp] theorem enterAgreed_noted (b c : Berth) (s : State) : (enterAgreed b s).noted c = s.noted c := by
  simp [enterAgreed]

@[simp] theorem releasingCheck_noted (b c : Berth) (s : State) : (releasingCheck b s).noted c = s.noted c := by
  unfold releasingCheck
  dsimp only
  (repeat' split) <;> simp

@[simp] theorem releaseClose_noted (b c : Berth) (s : State) : (releaseClose b s).noted c = s.noted c := by
  unfold releaseClose
  dsimp only
  split <;> simp

@[simp] theorem enterReleasing_noted (b : Berth) (s : State) : (enterReleasing b s).noted b = s.noted b := by
  simp [enterReleasing]

@[simp] theorem outletOpened_noted (b : Berth) (s : State) : (outletOpened b s).noted b = s.noted b := by
  simp [outletOpened]

@[simp] theorem openOutletSeparating_noted (b : Berth) (s : State) :
    (openOutletSeparating b s).noted b = s.noted b := by
  unfold openOutletSeparating
  dsimp only
  split <;> simp

@[simp] theorem enterSeparating_noted (b : Berth) (cause : SeparationCause) (s : State) :
    (enterSeparating b cause s).noted b = s.noted b := by
  unfold enterSeparating
  dsimp only
  split <;> simp

@[simp] theorem enterEnergising_noted (b c : Berth) (s : State) : (enterEnergising b s).noted c = s.noted c := by
  simp [enterEnergising]

@[simp] theorem enterParallel_noted (b c : Berth) (s : State) : (enterParallel b s).noted c = s.noted c := by
  simp [enterParallel]

@[simp] theorem enterTripped_noted (b : Berth) (cause : TripCause) (s : State) :
    (enterTripped b cause s).noted b = s.noted b := by
  unfold enterTripped
  dsimp only
  (repeat' split) <;> simp

@[simp] theorem raiseCause_noted (b : Berth) (cause : TripCause) (s : State) :
    (raiseCause b cause s).noted b = s.noted b := by
  unfold raiseCause
  (repeat' split) <;> simp

end Sys2Proof.Machine
end

