-- ==== Sys2Proof/Proofs/InputChanges.lean ====
section
/-! SUPPORT. What a change of an input does before its effect (R122), and that no effect undoes it (O49). -/

namespace Sys2Proof.Machine

/-! The effects of the four inputs that have one. -/

@[simp] theorem emergencyStopChanged_noted (b : Berth) (level : Contact) (s : State) :
    (emergencyStopChanged b level s).noted b = s.noted b := by
  unfold emergencyStopChanged
  split <;> simp

@[simp] theorem plugPilotChanged_noted (b : Berth) (level : Contact) (s : State) :
    (plugPilotChanged b level s).noted b = s.noted b := by
  unfold plugPilotChanged
  (repeat' split) <;> simp

@[simp] theorem outletAuxChanged_noted (b : Berth) (level : Contact) (s : State) :
    (outletAuxChanged b level s).noted b = s.noted b := by
  unfold outletAuxChanged outletClosed outletConfirmedOpen outletTripped
  dsimp only
  (repeat' split) <;> simp

@[simp] theorem couplerAuxChanged_noted (b : Berth) (level : Contact) (s : State) :
    (couplerAuxChanged b level s).noted b = s.noted b := by
  unfold couplerAuxChanged couplerClosed couplerOpened
  dsimp only
  (repeat' split) <;> simp

/-! The change itself. -/

theorem ChangeFlags.mark_of_get (l : InputLine) (f : ChangeFlags) (h : f.get l = true) : f.mark l = f := by
  cases l <;> cases f <;> simp_all [ChangeFlags.get, ChangeFlags.mark]

/-- The state that the effect of a changed input acts on: the level moved, the flag set, the notice latched (R122). -/
def changed (b : Berth) (l : InputLine) (move : Section → Section) (s : State) : State :=
  noteChange b l ((cleared s).modSec b move)

@[simp] theorem cleared_sec (c : Berth) (s : State) : (cleared s).sec c = s.sec c := rfl

theorem changed_of_clear (b : Berth) (l : InputLine) (move : Section → Section) (s : State)
    (h : (move (s.sec b)).flags.get l = false) :
    changed b l move s =
      latchShore (.inputChange b) ((cleared s).modSec b fun c =>
        { move c with flags := (move c).flags.mark l }) := by
  unfold changed noteChange
  rw [if_neg (by simpa using h), State.modSec_modSec]

theorem changed_of_set (b : Berth) (l : InputLine) (move : Section → Section) (s : State)
    (h : (move (s.sec b)).flags.get l = true) : changed b l move s = (cleared s).modSec b move := by
  unfold changed noteChange
  rw [if_pos (by simpa using h)]

/-- A changed input moves its level and sets its change flag (R122). -/
theorem changed_section (b : Berth) (l : InputLine) (move : Section → Section) (s : State) :
    (changed b l move s).sec b = { move (s.sec b) with flags := (move (s.sec b)).flags.mark l } := by
  cases h : (move (s.sec b)).flags.get l with
  | false =>
    rw [changed_of_clear b l move s h]
    simp
  | true => simp [changed_of_set b l move s h, ChangeFlags.mark_of_get l _ h]

/-- A changed input latches INPUT_CHANGE where its flag was clear (R122). -/
theorem changed_notice (b : Berth) (l : InputLine) (move : Section → Section) (s : State) :
    (changed b l move s).shoreSet (.inputChange b) =
      (s.shoreSet (.inputChange b) || !(move (s.sec b)).flags.get l) := by
  cases h : (move (s.sec b)).flags.get l with
  | false => simp [changed_of_clear b l move s h]
  | true =>
    rw [changed_of_set b l move s h]
    simp [State.shoreSet, State.modSec, cleared]

/-- What the change of an input leaves alone. -/
@[simp] theorem changed_frame (b : Berth) (l : InputLine) (move : Section → Section) (s : State) :
    (changed b l move s).now = s.now ∧ (changed b l move s).berths = s.berths ∧
    (changed b l move s).pool = s.pool ∧ (changed b l move s).budget = s.budget ∧
    (changed b l move s).settings = s.settings ∧ (changed b l move s).meters = s.meters ∧
    (changed b l move s).records = s.records ∧ (changed b l move s).ramps = s.ramps ∧
    (changed b l move s).tariff = s.tariff ∧
    (∀ c, (changed b l move s).berth c = s.berth c) ∧ (∀ c, (changed b l move s).sync c = s.sync c) ∧
    (∀ c, (changed b l move s).ramp c = s.ramp c) ∧ (∀ c, (changed b l move s).meter c = s.meter c) ∧
    (∀ c, (changed b l move s).reference c = s.reference c) := by
  simp [changed, cleared, State.berth, State.sync, State.ramp, State.meter, State.reference]

/-- A level that does not change is no event (R121). -/
theorem lineEvent_of_same (b : Berth) (l : InputLine) (same : Section → Bool) (move : Section → Section)
    (f : State → State) (s : State) (h : same (s.sec b) = true) : lineEvent b l same move f s = cleared s := by
  unfold lineEvent
  rw [if_pos h]
  rfl

/-- A change of an input in a quiet part: its flag and notice, its effect, the exceeded field (R122, R112). -/
theorem lineEvent_of_changed (b : Berth) (l : InputLine) (same : Section → Bool) (move : Section → Section)
    (f : State → State) (s : State) (hq : s.quiet) (h : same (s.sec b) = false) :
    lineEvent b l same move f s = settleExceeded (f (changed b l move s)) := by
  unfold lineEvent
  rw [if_neg (by simpa using h), if_neg (by simp [hq.1]), event_of_released _ _ hq.1]
  rfl

/-- An effect that keeps the flags and their notice leaves what the change made of them. -/
theorem lineEvent_notes (b : Berth) (l : InputLine) (same : Section → Bool) (move : Section → Section)
    (f : State → State) (s : State) (hq : s.quiet) (h : same (s.sec b) = false)
    (hm : (move (s.sec b)).flags = (s.sec b).flags) (hf : ∀ u, (f u).noted b = u.noted b) :
    ((lineEvent b l same move f s).sec b).flags = (s.sec b).flags.mark l ∧
      (lineEvent b l same move f s).shoreSet (.inputChange b) =
        (s.shoreSet (.inputChange b) || !(s.sec b).flags.get l) := by
  have kept : (lineEvent b l same move f s).noted b = (changed b l move s).noted b := by
    rw [lineEvent_of_changed b l same move f s hq h, settleExceeded_noted, hf]
  obtain ⟨flags, notice⟩ := Prod.mk.inj kept
  rw [flags, notice, changed_section, changed_notice, hm]
  exact ⟨rfl, rfl⟩

/-- A change with no further effect. -/
theorem lineEvent_idle (b : Berth) (l : InputLine) (same : Section → Bool) (move : Section → Section) (s : State)
    (hq : s.quiet) (h : same (s.sec b) = false) : lineEvent b l same move (fun s => s) s = changed b l move s := by
  rw [lineEvent_of_changed b l same move _ s hq h, settleExceeded_of_honest]
  exact exceededHonest_of_same s _ (by simp) (by simp) hq.2

theorem emergencyStopChange_notes (b : Berth) (x : Contact) (s : State) (hq : s.quiet)
    (h : (s.sec b).emergencyStop ≠ x) :
    ∃ t, exec (.emergencyStopChange b x) s = .next t ∧ (t.sec b).emergencyStop = x ∧
      (t.sec b).flags = (s.sec b).flags.mark .emergencyStop ∧
      t.shoreSet (.inputChange b) = (s.shoreSet (.inputChange b) || !(s.sec b).flags.get .emergencyStop) := by
  refine ⟨_, rfl, ?_, lineEvent_notes _ _ _ _ _ s hq (by simpa using h) rfl (by simp)⟩
  rw [lineEvent_of_changed _ _ _ _ _ s hq (by simpa using h)]
  simp [changed_section]

theorem plugPilotChange_notes (b : Berth) (x : Contact) (s : State) (hq : s.quiet) (h : (s.sec b).plugPilot ≠ x) :
    ∃ t, exec (.plugPilotChange b x) s = .next t ∧ (t.sec b).plugPilot = x ∧
      (t.sec b).flags = (s.sec b).flags.mark .plugPilot ∧
      t.shoreSet (.inputChange b) = (s.shoreSet (.inputChange b) || !(s.sec b).flags.get .plugPilot) := by
  refine ⟨_, rfl, ?_, lineEvent_notes _ _ _ _ _ s hq (by simpa using h) rfl (by simp)⟩
  rw [lineEvent_of_changed _ _ _ _ _ s hq (by simpa using h)]
  simp [changed_section]

theorem outletAuxChange_notes (b : Berth) (x : Contact) (s : State) (hq : s.quiet) (h : (s.sec b).outletAux ≠ x) :
    ∃ t, exec (.outletAuxChange b x) s = .next t ∧ (t.sec b).outletAux = x ∧
      (t.sec b).flags = (s.sec b).flags.mark .outletAux ∧
      t.shoreSet (.inputChange b) = (s.shoreSet (.inputChange b) || !(s.sec b).flags.get .outletAux) := by
  refine ⟨_, rfl, ?_, lineEvent_notes _ _ _ _ _ s hq (by simpa using h) rfl (by simp)⟩
  rw [lineEvent_of_changed _ _ _ _ _ s hq (by simpa using h)]
  simp [changed_section]

theorem couplerAuxChange_notes (b : Berth) (x : Contact) (s : State) (hq : s.quiet) (h : (s.sec b).couplerAux ≠ x) :
    ∃ t, exec (.couplerAuxChange b x) s = .next t ∧ (t.sec b).couplerAux = x ∧
      (t.sec b).flags = (s.sec b).flags.mark .couplerAux ∧
      t.shoreSet (.inputChange b) = (s.shoreSet (.inputChange b) || !(s.sec b).flags.get .couplerAux) := by
  refine ⟨_, rfl, ?_, lineEvent_notes _ _ _ _ _ s hq (by simpa using h) rfl (by simp)⟩
  rw [lineEvent_of_changed _ _ _ _ _ s hq (by simpa using h)]
  simp [changed_section]

theorem earthResultChange_notes (b : Berth) (x : EarthResult) (s : State) (hq : s.quiet)
    (h : (s.sec b).earthResult ≠ x) :
    ∃ t, exec (.earthResultChange b x) s = .next t ∧ (t.sec b).earthResult = x ∧
      (t.sec b).flags = (s.sec b).flags.mark .earthResult ∧
      t.shoreSet (.inputChange b) = (s.shoreSet (.inputChange b) || !(s.sec b).flags.get .earthResult) := by
  refine ⟨_, rfl, ?_, lineEvent_notes _ _ _ _ _ s hq (by simpa using h) rfl (by simp)⟩
  rw [lineEvent_idle _ _ _ _ s hq (by simpa using h)]
  simp [changed_section]

/-- A change of the earth-monitor result does nothing else than move its level and note the change (R131). -/
theorem earthResultChange_acts (b : Berth) (x : EarthResult) (s : State) (hq : s.quiet)
    (h : (s.sec b).earthResult ≠ x) :
    exec (.earthResultChange b x) s = .next (changed b .earthResult (fun c => { c with earthResult := x }) s) :=
  congrArg Host.Outcome.next (lineEvent_idle _ _ _ _ s hq (by simpa using h))

/-- A closing emergency-stop loop does nothing else than move its level and note the change (R123). -/
theorem emergencyStop_closes (b : Berth) (s : State) (hq : s.quiet) (h : (s.sec b).emergencyStop = .opened) :
    exec (.emergencyStopChange b .closed) s =
      .next (changed b .emergencyStop (fun c => { c with emergencyStop := .closed }) s) :=
  congrArg Host.Outcome.next (lineEvent_idle _ _ _ _ s hq (by simp [h]))

/-- Settles O49: every change of an input sets its flag, and three changes do nothing else. -/
theorem inputChangesSetTheirFlag : Obligations.InputChangesSetTheirFlag := by
  constructor
  · intro b x y s hq
    refine ⟨emergencyStopChange_notes b x s hq, plugPilotChange_notes b x s hq, outletAuxChange_notes b x s hq,
      couplerAuxChange_notes b x s hq, earthResultChange_notes b y s hq, ?_, ?_, ?_, ?_, ?_⟩ <;>
      exact congrArg Host.Outcome.next (lineEvent_of_same _ _ _ _ _ s (by simp))
  · intro b s hq
    refine ⟨fun x h clear => ?_, fun x h set => ?_, fun h clear => ?_⟩
    · exact (earthResultChange_acts b x s hq h).trans (congrArg _ (changed_of_clear _ _ _ s clear))
    · exact (earthResultChange_acts b x s hq h).trans (congrArg _ (changed_of_set _ _ _ s set))
    · exact (emergencyStop_closes b s hq h).trans (congrArg _ (changed_of_clear _ _ _ s clear))

end Sys2Proof.Machine
end

