-- ==== Sys2Proof/Proofs/PlugPilot.lean ====
section
/-! SUPPORT. What the entries to TRIPPED and VACANT and the leaving of VACANT make of their own berth, and the plug
pilot (O50). -/

namespace Sys2Proof.Machine

/-! Entry to TRIPPED (R21, R127). -/

theorem enterTripped_stage (b : Berth) (cause : TripCause) (s : State) :
    ((enterTripped b cause s).berth b).stage = .tripped := by
  unfold enterTripped
  dsimp only
  (repeat' split) <;> simp

theorem enterTripped_causes (b : Berth) (cause : TripCause) (s : State) :
    ((enterTripped b cause s).berth b).causes = (s.berth b).causes ++ [cause] := by
  unfold enterTripped
  dsimp only
  (repeat' split) <;> simp

/-- A berth into which a cause is raised is TRIPPED (R127). -/
theorem raiseCause_stage (b : Berth) (cause : TripCause) (s : State) :
    ((raiseCause b cause s).berth b).stage = .tripped := by
  unfold raiseCause
  split
  case isTrue tripped => split <;> simp [tripped]
  case isFalse => exact enterTripped_stage b cause s

/-- The first cause of a trip joins the set (R127). -/
theorem raiseCause_causes (b : Berth) (cause : TripCause) (s : State) (h : (s.berth b).stage ≠ .tripped) :
    ((raiseCause b cause s).berth b).causes = (s.berth b).causes ++ [cause] := by
  rw [raiseCause, if_neg h, enterTripped_causes]

/-- A raised cause is in the set (R127). -/
theorem mem_raiseCause (b : Berth) (cause : TripCause) (s : State) :
    cause ∈ ((raiseCause b cause s).berth b).causes := by
  unfold raiseCause
  split
  · split
    case isTrue held => exact held
    case isFalse => simp
  · simp [enterTripped_causes]

/-! Entry to VACANT, and its leaving (R7). -/

/-- Leaving VACANT makes the stage NEGOTIATING, and what cannot leave it keeps its stage (R7). -/
theorem passOn_stage (b : Berth) (s : State) :
    ((passOn b s).berth b).stage =
      if (s.berth b).stage = .vacant ∧ (s.berth b).inService = true ∧ (s.berth b).linkLost = false ∧
          (s.sec b).plugPilot = .closed then .negotiating
      else (s.berth b).stage := by
  unfold passOn
  dsimp only
  split <;> simp [enterNegotiatingFromVacant]

/-- With the plug pilot open, VACANT is not left (R7). -/
theorem passOn_of_open (b : Berth) (s : State) (h : (s.sec b).plugPilot = .opened) : passOn b s = s := by
  rw [passOn, if_neg (by simp [h])]

/-- Entry to VACANT gives up the agreement and the authority; it stays VACANT while the plug pilot is open (R7). -/
theorem enterVacant_of_open (b : Berth) (s : State) (h : (s.sec b).plugPilot = .opened) :
    ((enterVacant b s).berth b).stage = .vacant ∧ ((enterVacant b s).berth b).agreement = none ∧
      ((enterVacant b s).berth b).holder = .nobody := by
  unfold enterVacant
  dsimp only
  rw [passOn_of_open b _ (by simpa using h)]
  simp [BerthRecord.vacate]

/-! The plug pilot (R123). -/

theorem plugPilotOpens_vacant (b : Berth) (s : State) (h : (s.berth b).stage = .vacant) :
    plugPilotChanged b .opened s = s := by
  simp only [plugPilotChanged, h]

theorem plugPilotOpens_free (b : Berth) (s : State)
    (h : (s.berth b).stage = .negotiating ∨ (s.berth b).stage = .agreed) :
    plugPilotChanged b .opened s = enterVacant b s := by
  rcases h with h | h <;> simp only [plugPilotChanged, h]

theorem plugPilotOpens_trips (b : Berth) (s : State) (vacant : (s.berth b).stage ≠ .vacant)
    (negotiating : (s.berth b).stage ≠ .negotiating) (agreed : (s.berth b).stage ≠ .agreed) :
    plugPilotChanged b .opened s = raiseCause b .plugPilot s := by
  unfold plugPilotChanged
  split
  case h_1 e => exact absurd e (by simp)
  case h_2 => split <;> simp_all

/-- The state in which a change of the plug pilot acts. -/
def plugPilotMoved (b : Berth) (level : Contact) (s : State) : State :=
  changed b .plugPilot (fun c => { c with plugPilot := level }) s

theorem plugPilotChange_eq (b : Berth) (level : Contact) (s : State) (hq : s.quiet) (h : (s.sec b).plugPilot ≠ level) :
    exec (.plugPilotChange b level) s =
      .next (settleExceeded (plugPilotChanged b level (plugPilotMoved b level s))) :=
  congrArg Host.Outcome.next (lineEvent_of_changed _ _ _ _ _ s hq (by simpa using h))

theorem plugPilotOpening (b : Berth) (s : State) (hq : s.quiet) (h : (s.sec b).plugPilot = .closed) :
    ∃ t, exec (.plugPilotChange b .opened) s = .next t ∧ (t.sec b).plugPilot = .opened ∧
      (t.sec b).flags.plugPilot = true ∧ (t.berth b).linkLost = (s.berth b).linkLost ∧
      ((s.berth b).stage = .vacant → t.berths = s.berths) ∧
      ((s.berth b).stage = .negotiating ∨ (s.berth b).stage = .agreed →
        (t.berth b).stage = .vacant ∧ (t.berth b).agreement = none ∧ (t.berth b).holder = .nobody) ∧
      ((s.berth b).stage ≠ .vacant → (s.berth b).stage ≠ .negotiating → (s.berth b).stage ≠ .agreed →
        (t.berth b).stage = .tripped ∧ .plugPilot ∈ (t.berth b).causes) ∧
      ∀ c, c ≠ b → (t.berth c).stage = (s.berth c).stage ∧ (t.berth c).causes = (s.berth c).causes := by
  have differs : (s.sec b).plugPilot ≠ .opened := by simp [h]
  obtain ⟨t, acts, level, flags, -⟩ := plugPilotChange_notes b .opened s hq differs
  have e := Host.Outcome.next.inj (acts.symm.trans (plugPilotChange_eq b .opened s hq differs))
  have moved : ((plugPilotMoved b .opened s).sec b).plugPilot = .opened := by simp [plugPilotMoved, changed_section]
  have same (c : Berth) : (plugPilotMoved b .opened s).berth c = s.berth c := by simp [plugPilotMoved]
  refine ⟨t, acts, level, by rw [flags]; rfl, by simp [e, same], fun vacant => ?_, fun free => ?_,
    fun vacant negotiating agreed => ?_, fun c hc => by simp [e, same, hc]⟩
  · rw [e, plugPilotOpens_vacant b _ (by rw [same]; exact vacant)]
    simp [plugPilotMoved]
  · rw [e, plugPilotOpens_free b _ (by rw [same]; exact free)]
    simpa using enterVacant_of_open b _ moved
  · rw [e, plugPilotOpens_trips b _ (by rwa [same]) (by rwa [same]) (by rwa [same])]
    simp [raiseCause_stage, mem_raiseCause]

theorem plugPilotClosing (b : Berth) (s : State) (hq : s.quiet) (h : (s.sec b).plugPilot = .opened) :
    ∃ t, exec (.plugPilotChange b .closed) s = .next t ∧ (t.sec b).plugPilot = .closed ∧
      (t.sec b).flags.plugPilot = true ∧ (t.berth b).causes = (s.berth b).causes ∧
      (t.berth b).stage =
        (if (s.berth b).stage = .vacant ∧ (s.berth b).inService = true ∧ (s.berth b).linkLost = false then
          .negotiating
        else (s.berth b).stage) ∧
      t.pool = s.pool ∧ t.budget = s.budget ∧ t.meters = s.meters ∧ t.records = s.records ∧ t.ramps = s.ramps := by
  have differs : (s.sec b).plugPilot ≠ .closed := by simp [h]
  obtain ⟨t, acts, level, flags, -⟩ := plugPilotChange_notes b .closed s hq differs
  have moved : ((plugPilotMoved b .closed s).sec b).plugPilot = .closed := by simp [plugPilotMoved, changed_section]
  have e : t = passOn b (plugPilotMoved b .closed s) := by
    have settled := acts.symm.trans (plugPilotChange_eq b .closed s hq differs)
    rw [settleExceeded_of_honest _ (exceededHonest_of_same s _ (by simp [plugPilotChanged, plugPilotMoved])
      (by simp [plugPilotMoved]) hq.2)] at settled
    exact Host.Outcome.next.inj settled
  refine ⟨t, acts, level, by rw [flags]; rfl, ?_⟩
  rw [e, passOn_stage, moved]
  simp [plugPilotMoved]

/-- Settles O50: the plug pilot acts by its berth's stage. -/
theorem plugPilotActsByStage : Obligations.PlugPilotActsByStage := fun b s hq =>
  ⟨plugPilotOpening b s hq, plugPilotClosing b s hq⟩

end Sys2Proof.Machine
end

