-- ==== Sys2Proof/Proofs/ConnectionEnd.lean ====
section
/-! SUPPORT. What writing a record makes of the Record Pool where the copy queue has room (R156), and what the end of a
connection writes (R139, R145, R146). -/

namespace Sys2Proof.Machine

/-! The pool's number, queues and held records. -/

@[simp] theorem setSlot_lists (i : SlotId) (x : Slot) (s : State) :
    (setSlot i x s).records.nextNumber = s.records.nextNumber ∧
    (setSlot i x s).records.tariffQueue = s.records.tariffQueue ∧
    (setSlot i x s).records.copyQueues = s.records.copyQueues ∧ (setSlot i x s).records.held = s.records.held :=
  ⟨rfl, rfl, rfl, rfl⟩

@[simp] theorem fillSlots_lists (n : BitVec 16) (r : PoolRecord) (l : List SlotId) (s : State) :
    (fillSlots n r l s).records.nextNumber = s.records.nextNumber ∧
    (fillSlots n r l s).records.tariffQueue = s.records.tariffQueue ∧
    (fillSlots n r l s).records.copyQueues = s.records.copyQueues ∧
    (fillSlots n r l s).records.held = s.records.held := by
  unfold fillSlots
  exact ⟨foldl_keeps (fun s => s.records.nextNumber) _ (by intros; rfl) l s,
    foldl_keeps (fun s => s.records.tariffQueue) _ (by intros; rfl) l s,
    foldl_keeps (fun s => s.records.copyQueues) _ (by intros; rfl) l s,
    foldl_keeps (fun s => s.records.held) _ (by intros; rfl) l s⟩

/-- Raise the count of one slot's record to 2. -/
def raiseSlot (i : SlotId) (s : State) : State :=
  match s.records.slots.get i with
  | .used n x _ => setSlot i (.used n x 2) s
  | _ => s

theorem raiseCount_eq (ref : RecordRef) (s : State) :
    raiseCount ref s = ref.slots.foldl (fun s i => raiseSlot i s) s := rfl

theorem raiseSlot_lists (i : SlotId) (s : State) :
    (raiseSlot i s).records.nextNumber = s.records.nextNumber ∧
    (raiseSlot i s).records.tariffQueue = s.records.tariffQueue ∧
    (raiseSlot i s).records.copyQueues = s.records.copyQueues ∧ (raiseSlot i s).records.held = s.records.held := by
  unfold raiseSlot
  split <;> simp

@[simp] theorem raiseCount_lists (ref : RecordRef) (s : State) :
    (raiseCount ref s).records.nextNumber = s.records.nextNumber ∧
    (raiseCount ref s).records.tariffQueue = s.records.tariffQueue ∧
    (raiseCount ref s).records.copyQueues = s.records.copyQueues ∧
    (raiseCount ref s).records.held = s.records.held := by
  rw [raiseCount_eq]
  exact ⟨foldl_keeps (fun s => s.records.nextNumber) _ (fun s i => (raiseSlot_lists i s).1) _ s,
    foldl_keeps (fun s => s.records.tariffQueue) _ (fun s i => (raiseSlot_lists i s).2.1) _ s,
    foldl_keeps (fun s => s.records.copyQueues) _ (fun s i => (raiseSlot_lists i s).2.2.1) _ s,
    foldl_keeps (fun s => s.records.held) _ (fun s i => (raiseSlot_lists i s).2.2.2) _ s⟩

@[simp] theorem testPoolLow_lists (s : State) :
    (testPoolLow s).records.nextNumber = s.records.nextNumber ∧
    (testPoolLow s).records.tariffQueue = s.records.tariffQueue ∧
    (testPoolLow s).records.copyQueues = s.records.copyQueues ∧ (testPoolLow s).records.held = s.records.held ∧
    (testPoolLow s).records.slots = s.records.slots := by
  rw [testPoolLow_records]
  exact ⟨rfl, rfl, rfl, rfl, rfl⟩

/-- Joining the tariff queue changes the queue (R161). -/
@[simp] theorem joinTariffQueue_lists (ref : RecordRef) (s : State) :
    (joinTariffQueue ref s).records.nextNumber = s.records.nextNumber ∧
    (joinTariffQueue ref s).records.tariffQueue = s.records.tariffQueue ++ [ref] ∧
    (joinTariffQueue ref s).records.copyQueues = s.records.copyQueues ∧
    (joinTariffQueue ref s).records.held = s.records.held ∧
    (joinTariffQueue ref s).records.slots = s.records.slots := by
  unfold joinTariffQueue
  dsimp only
  split <;> simp [State.modRecords]

/-- Joining a copy queue changes that queue, and raises the record's count (R163). -/
@[simp] theorem joinCopyQueue_lists (b : Berth) (ref : RecordRef) (s : State) :
    (joinCopyQueue b ref s).records.nextNumber = s.records.nextNumber ∧
    (joinCopyQueue b ref s).records.tariffQueue = s.records.tariffQueue ∧
    (joinCopyQueue b ref s).records.copyQueues =
      s.records.copyQueues.set b (s.records.copyQueues.get b ++ [ref]) ∧
    (joinCopyQueue b ref s).records.held = s.records.held := by
  unfold joinCopyQueue
  dsimp only
  split <;> simp [State.modRecords]

/-! The pool's slots. -/

/-- A slot whose record's count has been raised to 2 (R156). -/
def Slot.raised (x : Slot) : Slot :=
  match x with
  | .used n r _ => .used n r 2
  | y => y

theorem Slot.raised_raised (x : Slot) : x.raised.raised = x.raised := by
  cases x <;> rfl

theorem fillSlots_get (n : BitVec 16) (r : PoolRecord) (l : List SlotId) (s : State) (j : SlotId) :
    (fillSlots n r l s).records.slots.get j = if j ∈ l then .used n r 1 else s.records.slots.get j := by
  induction l generalizing s with
  | nil => simp [fillSlots]
  | cons i rest ih =>
    rw [show fillSlots n r (i :: rest) s = fillSlots n r rest (setSlot i (.used n r 1) s) from rfl, ih, setSlot_get]
    by_cases hr : j ∈ rest <;> by_cases hi : j = i <;> simp [hr, hi]

theorem raiseSlot_get (i j : SlotId) (s : State) :
    (raiseSlot i s).records.slots.get j =
      if j = i then (s.records.slots.get j).raised else s.records.slots.get j := by
  unfold raiseSlot
  by_cases e : j = i
  · subst e
    cases h : s.records.slots.get j <;> simp [h, setSlot_get, Slot.raised]
  · split <;> simp [setSlot_get, e]

theorem raiseCount_get (ref : RecordRef) (s : State) (j : SlotId) :
    (raiseCount ref s).records.slots.get j =
      if j ∈ ref.slots then (s.records.slots.get j).raised else s.records.slots.get j := by
  rw [raiseCount_eq]
  generalize ref.slots = l
  induction l generalizing s with
  | nil => simp
  | cons i rest ih =>
    rw [List.foldl_cons, ih, raiseSlot_get]
    by_cases hr : j ∈ rest <;> by_cases hi : j = i <;> simp [hr, hi, Slot.raised_raised]

theorem joinCopyQueue_get (b : Berth) (ref : RecordRef) (s : State) (j : SlotId) :
    (joinCopyQueue b ref s).records.slots.get j =
      if j ∈ ref.slots then (s.records.slots.get j).raised else s.records.slots.get j := by
  unfold joinCopyQueue
  dsimp only
  split <;> simp [State.modRecords, raiseCount_get]

/-! Writing a record where its copy queue has room. -/

theorem beginRecord_lists (r : PoolRecord) (ref : RecordRef) (s : State) :
    (beginRecord r ref s).records.nextNumber = ref.number + 1#16 ∧
    (beginRecord r ref s).records.tariffQueue = s.records.tariffQueue ++ [ref] ∧
    (beginRecord r ref s).records.copyQueues = s.records.copyQueues ∧
    (beginRecord r ref s).records.held = s.records.held := by
  simp [beginRecord, State.modRecords]

theorem beginRecord_get (r : PoolRecord) (ref : RecordRef) (s : State) (j : SlotId) :
    (beginRecord r ref s).records.slots.get j =
      if j ∈ ref.slots then .used ref.number r 1 else s.records.slots.get j := by
  simp [beginRecord, fillSlots_get, State.modRecords]

/-- With room in its berth's copy queue, a record that is written joins it at once, and no slot is set free (R156). -/
theorem writeRecord_of_room (r : PoolRecord) (first : SlotId) (second : Option SlotId) (s : State)
    (room : (s.records.copyQueues.get r.berth).length < 8) :
    writeRecord r first second s =
      testPoolLow (joinCopyQueue r.berth (s.nextRef first second) (beginRecord r (s.nextRef first second) s)) := by
  obtain ⟨turns, enough⟩ : ∃ n, s.poolTurns 1 = n + 1 := ⟨s.poolTurns 1 - 1, by unfold State.poolTurns; omega⟩
  rw [writeRecord_eq, enough, poolWork_join, if_neg (by simpa [beginRecord_lists] using room), poolWork_nil]

/-- A record written with room in its copy queue stands at the tail of both queues (R156, R161, R163). -/
theorem writeRecord_lists (r : PoolRecord) (first : SlotId) (second : Option SlotId) (s : State)
    (room : (s.records.copyQueues.get r.berth).length < 8) :
    (writeRecord r first second s).records.nextNumber = s.records.nextNumber + 1#16 ∧
    (writeRecord r first second s).records.tariffQueue = s.records.tariffQueue ++ [s.nextRef first second] ∧
    (writeRecord r first second s).records.copyQueues =
      s.records.copyQueues.set r.berth (s.records.copyQueues.get r.berth ++ [s.nextRef first second]) ∧
    (writeRecord r first second s).records.held = s.records.held := by
  rw [writeRecord_of_room r first second s room]
  simp [beginRecord_lists, State.nextRef]

/-- A record written with room in its copy queue fills its slots, its count 2 (R156). -/
theorem writeRecord_get (r : PoolRecord) (first : SlotId) (second : Option SlotId) (s : State) (j : SlotId)
    (room : (s.records.copyQueues.get r.berth).length < 8) :
    (writeRecord r first second s).records.slots.get j =
      if j = first ∨ second = some j then .used s.records.nextNumber r 2 else s.records.slots.get j := by
  rw [writeRecord_of_room r first second s room]
  have named : j ∈ (s.nextRef first second).slots ↔ j = first ∨ second = some j := by
    simp [RecordRef.slots, State.nextRef]
  simp only [testPoolLow_lists, joinCopyQueue_get, beginRecord_get, named]
  split <;> rfl

/-- A record written with room in its copy queue lets no held record into the pool: every Meter channel stays. -/
theorem writeRecord_meter (r : PoolRecord) (first : SlotId) (second : Option SlotId) (s : State) (c : Berth)
    (room : (s.records.copyQueues.get r.berth).length < 8) :
    (writeRecord r first second s).meter c = s.meter c := by
  rw [writeRecord_of_room r first second s room]
  simp

/-! The end of a connection (R139). -/

/-- The record of a connection's final interval (R145). -/
def finalRecord (b : Berth) (cause : EndCause) (i : Interval) (s : State) : IntervalRecord :=
  closedRecord b (s.meter b) (i.final cause)

/-- A channel whose final interval has been marked and closed, its record not yet written (R145). -/
def finalClosed (b : Berth) (cause : EndCause) (i : Interval) (s : State) : State :=
  closeInterval b (finalRecord b cause i s)
    (markInterval b (fun k => { k with partialEnd := true, trip := k.trip || cause.isTrip }) s)

theorem finalClosed_meter (b : Berth) (cause : EndCause) (i : Interval) (s : State) :
    (finalClosed b cause i s).meter b =
      { s.meter b with delivered := (s.meter b).delivered % cjPerWh, reverse := (s.meter b).reverse % cjPerWh,
                       interval := none, totals := (s.meter b).totals.add (finalRecord b cause i s) } := by
  simp [finalClosed, closeInterval, markInterval]

@[simp] theorem finalClosed_frame (b : Berth) (cause : EndCause) (i : Interval) (s : State) :
    (finalClosed b cause i s).records = s.records ∧ (finalClosed b cause i s).berths = s.berths :=
  ⟨rfl, rfl⟩

theorem closeFinal_eq (b : Berth) (cause : EndCause) (i : Interval) (s : State) (h : (s.meter b).interval = some i) :
    closeFinal b cause.isTrip s =
      match s.records.freeSlots with
      | slot :: _ => writeRecord (.interval (finalRecord b cause i s)) slot none (finalClosed b cause i s)
      | [] =>
        ((finalClosed b cause i s).modMeter b fun m => { m with held := some (finalRecord b cause i s) }).modRecords
          fun p => { p with held := p.held ++ [{ berth := b, copyWanted := true }] } := by
  have marked : ((markInterval b (fun k => { k with partialEnd := true, trip := k.trip || cause.isTrip }) s).meter b) =
      { s.meter b with interval := some (i.final cause) } := by
    simp [markInterval, h, Interval.final]
  unfold closeFinal
  dsimp only
  rw [marked]
  rfl

theorem endConnection_eq (b : Berth) (cause : EndCause) (x : ConnectionTerms) (s : State)
    (open_ : (s.meter b).connected = true) (terms : ((closeFinal b cause.isTrip s).meter b).terms = some x) :
    endConnection b cause s =
      (writeSummary b (summaryOf b ((closeFinal b cause.isTrip s).meter b) x s.tariff.clock cause)
        (closeFinal b cause.isTrip s)).modMeter b fun m =>
          { m with connected := false, terms := none, delivered := 0, reverse := 0, interval := none } := by
  unfold endConnection
  simp [open_, terms]

theorem writeSummary_eq (b : Berth) (r : SummaryRecord) (low high : SlotId) (s : State)
    (h : s.records.reservedSlots b = [low, high]) :
    writeSummary b r s =
      writeRecord (.summary r) low (some high) (s.modBerth b fun x => { x with summaryReserved := false }) := by
  unfold writeSummary
  dsimp only
  rw [show (s.modBerth b fun x => { x with summaryReserved := false }).records = s.records from rfl, h]

theorem finalRecord_isRecordOf (b : Berth) (cause : EndCause) (i : Interval) (s : State) :
    isRecordOf b (s.meter b) (i.final cause) (finalRecord b cause i s) :=
  ⟨rfl, rfl, rfl, rfl, rfl, rfl, rfl, rfl, fun h => if_neg (by omega), rfl, rfl⟩

theorem countsIn_add (r : IntervalRecord) (before : Totals) : countsIn r before (before.add r) := by
  refine ⟨rfl, rfl, rfl, rfl, ?_⟩
  cases h : r.marks.partialStart || r.marks.partialEnd || r.marks.stretched with
  | true =>
    have out : entersPeak r.marks = false := by
      simp only [entersPeak, ← Bool.not_or, h, Bool.not_true]
    simp [Totals.add, out]
  | false =>
    have enters : entersPeak r.marks = true := by
      simp only [entersPeak, ← Bool.not_or, h, Bool.not_false]
    simp only [Totals.add, enters, Bool.true_and, decide_eq_true_eq, Bool.false_eq_true, if_false]
    split <;> omega

theorem isFree_of_freeSlots {p : RecordPool} {slot : SlotId} {rest : List SlotId} (h : p.freeSlots = slot :: rest) :
    (p.slots.get slot).isFree = true := by
  have member : slot ∈ p.freeSlots := by simp [h]
  exact (List.mem_filter.mp member).2

theorem mem_reservedSlots (p : RecordPool) (b : Berth) (j : SlotId) :
    j ∈ p.reservedSlots b ↔ (p.slots.get j).isReservedFor b = true := by
  simp [RecordPool.reservedSlots, allSlots]

/-- A berth's reservation is told by which slots are reserved for it. -/
theorem reservedSlots_congr {p q : RecordPool} (b : Berth)
    (h : ∀ j, (p.slots.get j).isReservedFor b = (q.slots.get j).isReservedFor b) :
    p.reservedSlots b = q.reservedSlots b :=
  List.filter_congr fun j _ => h j

/-- With a slot free and room in the copy queue, the final interval's record is written there (R145). -/
theorem closeFinal_writes (b : Berth) (cause : EndCause) (i : Interval) (slot : SlotId) (rest : List SlotId) (s : State)
    (interval : (s.meter b).interval = some i) (free : s.records.freeSlots = slot :: rest)
    (room : (s.records.copyQueues.get b).length < 8) :
    let ref : RecordRef := { number := s.records.nextNumber, first := slot, second := none }
    let u := closeFinal b cause.isTrip s
    u.records.nextNumber = s.records.nextNumber + 1#16 ∧ u.records.tariffQueue = s.records.tariffQueue ++ [ref] ∧
      u.records.copyQueues.get b = s.records.copyQueues.get b ++ [ref] ∧
      (∀ j, u.records.slots.get j =
        if j = slot then .used s.records.nextNumber (.interval (finalRecord b cause i s)) 2
        else s.records.slots.get j) ∧
      u.meter b = (finalClosed b cause i s).meter b := by
  intro ref u
  have written : u = writeRecord (.interval (finalRecord b cause i s)) slot none (finalClosed b cause i s) := by
    simp only [u, closeFinal_eq b cause i s interval, free]
  rw [written]
  obtain ⟨number, tariff, copies, -⟩ := writeRecord_lists (.interval (finalRecord b cause i s)) slot none
    (finalClosed b cause i s) room
  refine ⟨number, tariff, ?_, fun j => ?_, writeRecord_meter _ _ _ _ b room⟩
  · rw [copies]
    exact PerBerth.get_set_self _ b _
  · rw [writeRecord_get _ _ _ _ j room]
    simp

/-- With room in the copy queue, the Connection Summary is written into the two reserved slots, which are reserved no
more (R146, R158). -/
theorem writeSummary_writes (b : Berth) (r : SummaryRecord) (low high : SlotId) (s : State) (hb : r.berth = b)
    (reserved : s.records.reservedSlots b = [low, high]) (room : (s.records.copyQueues.get b).length < 8) :
    let ref : RecordRef := { number := s.records.nextNumber, first := low, second := some high }
    let t := writeSummary b r s
    t.records.nextNumber = s.records.nextNumber + 1#16 ∧ t.records.tariffQueue = s.records.tariffQueue ++ [ref] ∧
      t.records.copyQueues.get b = s.records.copyQueues.get b ++ [ref] ∧
      (∀ j, t.records.slots.get j =
        if j = low ∨ j = high then .used s.records.nextNumber (.summary r) 2 else s.records.slots.get j) ∧
      t.records.reservedSlots b = [] ∧ t.meter b = s.meter b ∧ (t.berth b).summaryReserved = false := by
  subst hb
  intro ref t
  have written : t = writeRecord (.summary r) low (some high)
      (s.modBerth r.berth fun x => { x with summaryReserved := false }) := writeSummary_eq _ r low high s reserved
  have slots (j : SlotId) : t.records.slots.get j =
      if j = low ∨ j = high then .used s.records.nextNumber (.summary r) 2 else s.records.slots.get j := by
    rw [written, writeRecord_get _ _ _ _ j room]
    simp [eq_comm]
  have none_reserved : t.records.reservedSlots r.berth = [] := by
    refine List.filter_eq_nil_iff.mpr fun j _ => ?_
    have names : (s.records.slots.get j).isReservedFor r.berth = true ↔ j = low ∨ j = high := by
      rw [← mem_reservedSlots, reserved]
      simp
    rw [slots j]
    split
    · simp [Slot.isReservedFor]
    · rwa [names]
  obtain ⟨number, tariff, copies, -⟩ := writeRecord_lists (.summary r) low (some high)
    (s.modBerth r.berth fun x => { x with summaryReserved := false }) room
  rw [← written] at number tariff copies
  refine ⟨number, tariff, ?_, slots, none_reserved, ?_, ?_⟩
  · rw [copies]
    exact PerBerth.get_set_self _ _ _
  · rw [written, writeRecord_meter _ _ _ _ _ room]
    simp
  · rw [written]
    simp

/-- A FREE slot is reserved for no berth, and stays so when a record is written into it. -/
theorem not_reserved_of_isFree {x : Slot} (h : x.isFree = true) (b : Berth) : x.isReservedFor b = false := by
  cases x <;> simp_all [Slot.isFree, Slot.isReservedFor]

/-- What the end of a connection writes where a slot is free and the copy queue has room (R139, R145, R146). -/
theorem endConnection_writes (b : Berth) (cause : EndCause) (s : State) :
    writesConnectionEnd b cause s (endConnection b cause s) := by
  intro i x slot rest low high connected interval terms free reserved room
  have slot_free := not_reserved_of_isFree (isFree_of_freeSlots free) b
  have slot_apart (j : SlotId) (h : j ∈ [low, high]) : j ≠ slot := by
    rintro rfl
    rw [← reserved, mem_reservedSlots, slot_free] at h
    exact Bool.noConfusion h
  have hlow : low ≠ slot := slot_apart low (by simp)
  have hhigh : high ≠ slot := slot_apart high (by simp)
  obtain ⟨number, tariff, copies, slots, meter⟩ :=
    closeFinal_writes b cause i slot rest s interval free (by omega)
  rw [finalClosed_meter] at meter
  rw [endConnection_eq b cause x s connected (by rw [meter]; exact terms)]
  generalize closeFinal b cause.isTrip s = u at *
  have still : u.records.reservedSlots b = [low, high] := by
    rw [← reserved]
    refine reservedSlots_congr b fun j => ?_
    rw [slots j]
    split
    case isTrue e => rw [e, slot_free]; rfl
    case isFalse => rfl
  obtain ⟨summary, hsummary⟩ : ∃ y, y = summaryOf b (u.meter b) x s.tariff.clock cause := ⟨_, rfl⟩
  rw [← hsummary]
  obtain ⟨number', tariff', copies', slots', gone, meter', returned⟩ :=
    writeSummary_writes b summary low high u (by rw [hsummary]; rfl) still (by rw [copies]; simp; omega)
  generalize writeSummary b summary u = t at *
  have record := finalRecord_isRecordOf b cause i s
  have totals := countsIn_add (finalRecord b cause i s) (s.meter b).totals
  have next : s.records.nextNumber + 1#16 + 1#16 = s.records.nextNumber + 2#16 := BitVec.add_assoc _ 1#16 1#16
  refine ⟨finalRecord b cause i s, summary, ?_⟩
  simp [number', tariff', copies', slots', gone, meter', returned, number, tariff, copies, slots, meter, record, totals,
    next, hlow.symm, hhigh.symm, hsummary, summaryOf, cjPerWh]

/-- With room in the copy queue, writing a summary lets no held record into the pool. -/
theorem writeSummary_keeps_held (b : Berth) (r : SummaryRecord) (s : State) (c : Berth)
    (room : (s.records.copyQueues.get r.berth).length < 8) :
    (writeSummary b r s).records.held = s.records.held ∧ (writeSummary b r s).meter c = s.meter c := by
  unfold writeSummary
  dsimp only
  split
  next i j _ _ =>
    obtain ⟨-, -, -, held⟩ := writeRecord_lists (.summary r) i (some j)
      (s.modBerth b fun x => { x with summaryReserved := false }) room
    exact ⟨held, by rw [writeRecord_meter _ _ _ _ c room]; simp⟩
  next => exact ⟨rfl, by simp⟩

/-- Where no slot is free, the final interval's record is held by its channel (R145). -/
theorem endConnection_holds (b : Berth) (cause : EndCause) (s : State) :
    holdsFinalInterval b cause s (endConnection b cause s) := by
  intro i connected interval free room
  have closed := closeFinal_eq b cause i s interval
  rw [free] at closed
  have roomAfter : ((closeFinal b cause.isTrip s).records.copyQueues.get b).length < 8 := by
    rw [closed]
    exact room
  have summarised : (endConnection b cause s).records.held = (closeFinal b cause.isTrip s).records.held ∧
      ((endConnection b cause s).meter b).held = ((closeFinal b cause.isTrip s).meter b).held := by
    unfold endConnection
    rw [if_neg (by simp [connected])]
    dsimp only
    split
    next x _ =>
      obtain ⟨held, meter⟩ := writeSummary_keeps_held b
        (summaryOf b ((closeFinal b cause.isTrip s).meter b) x s.tariff.clock cause) _ b roomAfter
      simp [held, meter]
    next => simp
  rw [summarised.1, summarised.2, closed]
  refine ⟨rfl, finalRecord b cause i s, ?_, finalRecord_isRecordOf b cause i s⟩
  simp [State.modRecords, State.meter, State.modMeter]

/-- After its end no connection is open (R139). -/
@[simp] theorem endConnection_connected (b : Berth) (cause : EndCause) (s : State) :
    ((endConnection b cause s).meter b).connected = false := by
  unfold endConnection
  split
  case isTrue closed => simpa using closed
  case isFalse => simp

/-- What the end of a connection writes is told by the channel, the pool and the clock before, and by the pool, the
channel's totals and the reservation after. -/
theorem writesConnectionEnd_congr (b : Berth) (cause : EndCause) (s u v t : State) (channel : u.meter b = s.meter b)
    (pool : u.records = s.records) (clock : u.tariff = s.tariff) (records : t.records = v.records)
    (meter : t.meter b = v.meter b) (reserved : (t.berth b).summaryReserved = (v.berth b).summaryReserved)
    (h : writesConnectionEnd b cause u v) : writesConnectionEnd b cause s t := by
  unfold writesConnectionEnd at h ⊢
  rwa [channel, pool, clock, ← records, ← meter, ← reserved] at h

theorem holdsFinalInterval_congr (b : Berth) (cause : EndCause) (s u v t : State) (channel : u.meter b = s.meter b)
    (pool : u.records = s.records) (records : t.records = v.records) (meter : t.meter b = v.meter b)
    (h : holdsFinalInterval b cause u v) : holdsFinalInterval b cause s t := by
  unfold holdsFinalInterval at h ⊢
  rwa [channel, pool, ← records, ← meter] at h

end Sys2Proof.Machine
end

