-- ==== Sys2Proof/Proofs/CouplerAuxiliary.lean ====
section
/-! SUPPORT. The coupler auxiliary: entry to PARALLEL, the open pulse, the parting of the buses (O52). -/

namespace Sys2Proof.Machine

/-! A ramp cleared at a stage entry stays at rest while its berth's headroom is given away (R110, R115). -/

/-- A ramp at rest with nothing wanted (R110). -/
def Ramp.atRest (r : Ramp) : Prop :=
  r.setpoint = 0 ∧ r.wanted = 0 ∧ r.target = 0 ∧ r.state = .idle

theorem Ramp.settle_of_atRest (n : Nat) (r : Ramp) (h : r.atRest) : r.settle n 0 = r := by
  obtain ⟨setpoint, -, target, idle⟩ := h
  cases r
  simp_all [Ramp.settle]

theorem retarget_ramp_of_atRest (b c : Berth) (s : State) (h : (s.ramp c).atRest) :
    (retarget b s).ramp c = s.ramp c := by
  unfold retarget
  split
  case isFalse => rfl
  case isTrue =>
    by_cases e : c = b
    · subst e
      have nothing : min (s.boundedTarget c) (s.reservation c) = 0 := by simp [State.boundedTarget, h.2.1]
      rw [State.ramp_modRamp_self, nothing, Ramp.settle_of_atRest _ _ h]
    · exact State.ramp_modRamp_of_ne s b c _ e

theorem offer_ramp_of_atRest (fuel : Nat) (c : Berth) (s : State) (h : (s.ramp c).atRest) :
    (offer fuel s).ramp c = s.ramp c := by
  induction fuel generalizing s with
  | zero => simp [offer]
  | succ fuel ih =>
    cases hw : s.budget.waiting with
    | nil => simp [offer, hw]
    | cons e rest =>
      rw [offer_succ fuel s e rest hw]
      dsimp only
      generalize s.reservation e.berth + min (e.wanted - s.reservation e.berth) s.headroom.toNat = granted
      have served : (if min (e.wanted - s.reservation e.berth) s.headroom.toNat = 0 then s
          else retarget e.berth (s.setReservation e.berth granted)).ramp c = s.ramp c := by
        split
        · rfl
        · exact retarget_ramp_of_atRest e.berth c (s.setReservation e.berth granted) h
      revert served
      generalize (if min (e.wanted - s.reservation e.berth) s.headroom.toNat = 0 then s
        else retarget e.berth (s.setReservation e.berth granted)) = u
      intro served
      split
      · exact (ih (u.setWaiting rest) (show (u.ramp c).atRest from served ▸ h)).trans served
      · exact served

theorem lowerReservation_ramp_of_atRest (b c : Berth) (s : State) (h : (s.ramp c).atRest) :
    (lowerReservation b s).ramp c = s.ramp c := by
  unfold lowerReservation
  split
  · rfl
  · exact offer_ramp_of_atRest _ c _ h

theorem reportSetpoint_ramp_of_atRest (b c : Berth) (s : State) (h : (s.ramp c).atRest) :
    (reportSetpoint b s).ramp c = s.ramp c := by
  have shares : (recomputeShares b s).ramp c = s.ramp c := by simp
  exact (lowerReservation_ramp_of_atRest b c _ (by rwa [shares])).trans shares

/-- A Ramp Unit cleared at a stage entry is at rest (R110). -/
theorem clearRamp_atRest (b : Berth) (s : State) : ((clearRamp b s).ramp b).atRest := by
  have resting : ((s.modRamp b fun r =>
      { r with setpoint := 0, wanted := 0, target := 0, state := .idle, advance := none, separationWait := none,
               separationDelayed := false }).ramp b).atRest := by
    rw [State.ramp_modRamp_self]
    exact ⟨rfl, rfl, rfl, rfl⟩
  unfold clearRamp
  dsimp only
  split
  · exact resting
  · rwa [reportSetpoint_ramp_of_atRest b b _ resting]

/-! Entry to PARALLEL (R14, R138). -/

theorem enterParallel_stage (b : Berth) (s : State) : ((enterParallel b s).berth b).stage = .parallel := by
  simp [enterParallel]

theorem enterParallel_sync (b : Berth) (s : State) :
    ((enterParallel b s).sync b).running = false ∧ ((enterParallel b s).sync b).inFlight = false ∧
      ((enterParallel b s).sync b).failures = 0 := by
  simp [enterParallel, stopSync]

theorem enterParallel_ramp (b : Berth) (s : State) : ((enterParallel b s).ramp b).atRest := by
  simpa [enterParallel] using clearRamp_atRest b (setModeByRole b (stopSync b (setStage b .parallel s)))

/-- A connection begins with its agreement's terms, at zero, in a partial interval of the present clock (R138, R142). -/
theorem enterParallel_meter (b : Berth) (s : State) (a : Agreement) (h : (s.berth b).agreement = some a) :
    let m := (enterParallel b s).meter b
    m.connected = true ∧ m.delivered = 0 ∧ m.reverse = 0 ∧ m.totals = Totals.zero ∧
      ∃ x i, m.terms = some x ∧ x.agreedKw = a.agreedKw ∧ x.connectedAt = s.tariff.clock ∧
        m.interval = some i ∧ i.start = s.tariff.clock ∧ i.elapsed = 0 ∧ i.marks.partialStart = true := by
  simp [enterParallel, beginConnection, newInterval, h]

/-! The outlet commanded open while it stands closed (R125). -/

theorem commandOutletOpen_of_closed (b : Berth) (s : State) (command : (s.sec b).outletCommand = .closed)
    (aux : (s.sec b).outletAux = .closed) :
    commandOutletOpen b s =
      s.modSec b fun c => { c with outletCommand := .opened, supervision := .opening (s.inMs 200) } := by
  simp only [commandOutletOpen, command]
  exact State.modSec_congr s b (by simp [aux])

theorem openOutletSeparating_of_closed (b : Berth) (s : State) (command : (s.sec b).outletCommand = .closed)
    (aux : (s.sec b).outletAux = .closed) :
    openOutletSeparating b s =
      s.modSec b fun c => { c with outletCommand := .opened, supervision := .opening (s.inMs 200) } := by
  simp [openOutletSeparating, aux, commandOutletOpen_of_closed b s command aux]

/-! Entry to SEPARATING with the coupler open and the outlet closed (R18). -/

/-- The state in which SEPARATING's entry parts the coupler or finds it open. -/
def beforeParting (b : Berth) (cause : SeparationCause) (s : State) : State :=
  let s := setStage b .separating s
  let s := s.modBerth b fun r => { r with separationCause := some cause }
  let s := clearOverload b (cancelSchedule b (stopGrace b s))
  let s := clearReservation b (dropWaiting b (clearRamp b s))
  setMode b .form (withdraw b false s)

theorem enterSeparating_eq (b : Berth) (cause : SeparationCause) (s : State) :
    enterSeparating b cause s =
      match ((beforeParting b cause s).sec b).couplerAux with
      | .closed => beginOpenPulse b (beforeParting b cause s)
      | .opened => openOutletSeparating b (endConnection b (.separated cause) (beforeParting b cause s)) := rfl

theorem beforeParting_berth (b : Berth) (cause : SeparationCause) (s : State) :
    ((beforeParting b cause s).berth b).stage = .separating ∧
      ((beforeParting b cause s).berth b).separationCause = some cause := by
  simp [beforeParting]

theorem beforeParting_section (b : Berth) (cause : SeparationCause) (s : State) :
    ((beforeParting b cause s).sec b).couplerAux = (s.sec b).couplerAux ∧
      ((beforeParting b cause s).sec b).outletAux = (s.sec b).outletAux ∧
      ((beforeParting b cause s).sec b).outletCommand = (s.sec b).outletCommand := by
  simp [beforeParting, clearOverload, cancelSchedule, stopGrace]

theorem beforeParting_now (b : Berth) (cause : SeparationCause) (s : State) :
    (beforeParting b cause s).now = s.now := by
  simp [beforeParting]

theorem enterSeparating_of_open (b : Berth) (cause : SeparationCause) (s : State)
    (coupler : (s.sec b).couplerAux = .opened) (command : (s.sec b).outletCommand = .closed)
    (aux : (s.sec b).outletAux = .closed) :
    let t := enterSeparating b cause s
    (t.berth b).stage = .separating ∧ (t.berth b).separationCause = some cause ∧ (t.meter b).connected = false ∧
      (t.sec b).outletCommand = .opened ∧ (t.sec b).supervision = .opening (s.now + 200 * 10000) := by
  obtain ⟨stage, kept⟩ := beforeParting_berth b cause s
  obtain ⟨coupler', aux', command'⟩ := beforeParting_section b cause s
  have parted : enterSeparating b cause s =
      openOutletSeparating b (endConnection b (.separated cause) (beforeParting b cause s)) := by
    rw [enterSeparating_eq, coupler', coupler]
  rw [parted, openOutletSeparating_of_closed b _ (by simp [command', command]) (by simp [aux', aux])]
  simp [stage, kept, beforeParting_now, State.inMs, ticksPerMs]

/-! The coupler auxiliary (R126). -/

/-- The state in which a change of the coupler auxiliary acts. -/
def couplerAuxMoved (b : Berth) (level : Contact) (s : State) : State :=
  changed b .couplerAux (fun c => { c with couplerAux := level }) s

theorem couplerAuxChange_eq (b : Berth) (level : Contact) (s : State) (hq : s.quiet)
    (h : (s.sec b).couplerAux ≠ level) :
    exec (.couplerAuxChange b level) s =
      .next (settleExceeded (couplerAuxChanged b level (couplerAuxMoved b level s))) :=
  congrArg Host.Outcome.next (lineEvent_of_changed _ _ _ _ _ s hq (by simpa using h))

@[simp] theorem couplerAuxMoved_section (b : Berth) (level : Contact) (s : State) :
    ((couplerAuxMoved b level s).sec b).couplerAux = level ∧
    ((couplerAuxMoved b level s).sec b).couplerOpen = (s.sec b).couplerOpen ∧
    ((couplerAuxMoved b level s).sec b).outletCommand = (s.sec b).outletCommand ∧
    ((couplerAuxMoved b level s).sec b).outletAux = (s.sec b).outletAux := by
  simp [couplerAuxMoved, changed_section]

@[simp] theorem couplerAuxMoved_frame (b : Berth) (level : Contact) (s : State) :
    (couplerAuxMoved b level s).now = s.now ∧ (couplerAuxMoved b level s).berths = s.berths ∧
    (couplerAuxMoved b level s).records = s.records ∧ (couplerAuxMoved b level s).tariff = s.tariff ∧
    (∀ c, (couplerAuxMoved b level s).berth c = s.berth c) ∧ (∀ c, (couplerAuxMoved b level s).sync c = s.sync c) ∧
    (∀ c, (couplerAuxMoved b level s).meter c = s.meter c) := by
  simp [couplerAuxMoved]

/-- The coupler closes on the close pulse: the buses are joined (R14, R126, R138). -/
theorem couplerCloses_synchronising (b : Berth) (a : Agreement) (s : State) (hq : s.quiet)
    (aux : (s.sec b).couplerAux = .opened) (stage : (s.berth b).stage = .synchronising)
    (line : (s.sync b).closeLine = true) (agreed : (s.berth b).agreement = some a) :
    ∃ t, exec (.couplerAuxChange b .closed) s = .next t ∧ (t.berth b).stage = .parallel ∧
      (t.sync b).running = false ∧ (t.sync b).inFlight = false ∧ (t.sync b).failures = 0 ∧
      (t.reference b).mode = a.role.mode ∧ (t.ramp b).setpoint = 0 ∧ (t.ramp b).wanted = 0 ∧
      (t.ramp b).state = .idle ∧ (t.berth b).summaryReserved = (s.berth b).summaryReserved ∧
      (t.meter b).connected = true ∧ (t.meter b).delivered = 0 ∧ (t.meter b).reverse = 0 ∧
      (t.meter b).totals = Totals.zero ∧
      ∃ x i, (t.meter b).terms = some x ∧ x.agreedKw = a.agreedKw ∧ x.connectedAt = s.tariff.clock ∧
        (t.meter b).interval = some i ∧ i.start = s.tariff.clock ∧ i.elapsed = 0 ∧ i.marks.partialStart = true := by
  refine ⟨_, couplerAuxChange_eq b .closed s hq (by simp [aux]), ?_⟩
  have joins : couplerAuxChanged b .closed (couplerAuxMoved b .closed s) =
      enterParallel b (couplerAuxMoved b .closed s) := by
    simp [couplerAuxChanged, couplerClosed, stage, line]
  have held : ((couplerAuxMoved b .closed s).berth b).agreement = some a := by simp [agreed]
  obtain ⟨running, inFlight, failures⟩ := enterParallel_sync b (couplerAuxMoved b .closed s)
  obtain ⟨setpoint, wanted, -, idle⟩ := enterParallel_ramp b (couplerAuxMoved b .closed s)
  have channel := enterParallel_meter b (couplerAuxMoved b .closed s) a held
  simp only [couplerAuxMoved_frame] at channel
  rw [joins]
  simp only [settleExceeded_frame]
  exact ⟨enterParallel_stage b _, running, inFlight, failures, enterParallel_mode b _ a held, setpoint, wanted, idle,
    by simp, channel⟩

/-- The coupler closes in TRIPPED or RELEASING: an open pulse is driven (R126). -/
theorem couplerCloses_unwanted (b : Berth) (s : State) (hq : s.quiet) (aux : (s.sec b).couplerAux = .opened)
    (stage : (s.berth b).stage = .tripped ∨ (s.berth b).stage = .releasing) :
    ∃ t, exec (.couplerAuxChange b .closed) s = .next t ∧ t.berths = s.berths ∧
      (t.sec b).couplerOpen = some ((s.sec b).couplerOpen.getD (s.now + 200 * 10000)) := by
  refine ⟨_, couplerAuxChange_eq b .closed s hq (by simp [aux]), ?_⟩
  have pulses : couplerAuxChanged b .closed (couplerAuxMoved b .closed s) =
      beginOpenPulse b (couplerAuxMoved b .closed s) := by
    rcases stage with stage | stage <;> simp [couplerAuxChanged, couplerClosed, stage]
  rw [pulses]
  simp [beginOpenPulse, State.inMs, ticksPerMs]

/-- The coupler opens on the open pulse in SEPARATING: the connection ends and the outlet is commanded open (R18). -/
theorem couplerOpens_separating (b : Berth) (pulse : Nat) (cause : SeparationCause) (s : State) (hq : s.quiet)
    (aux : (s.sec b).couplerAux = .closed) (driven : (s.sec b).couplerOpen = some pulse)
    (stage : (s.berth b).stage = .separating) (kept : (s.berth b).separationCause = some cause)
    (command : (s.sec b).outletCommand = .closed) (outlet : (s.sec b).outletAux = .closed) :
    ∃ t, exec (.couplerAuxChange b .opened) s = .next t ∧ (t.berth b).stage = .separating ∧
      (t.berth b).separationCause = some cause ∧ (t.sec b).couplerOpen = none ∧
      (t.sec b).outletCommand = .opened ∧ (t.sec b).supervision = .opening (s.now + 200 * 10000) ∧
      (t.meter b).connected = false ∧ writesConnectionEnd b (.separated cause) s t ∧
      holdsFinalInterval b (.separated cause) s t := by
  refine ⟨_, couplerAuxChange_eq b .opened s hq (by simp [aux]), ?_⟩
  let u := (couplerAuxMoved b .opened s).modSec b fun c => { c with couplerOpen := none }
  have parts : couplerAuxChanged b .opened (couplerAuxMoved b .opened s) =
      (endConnection b (.separated cause) u).modSec b fun c =>
        { c with outletCommand := .opened, supervision := .opening (s.now + 200 * 10000) } := by
    have opens := openOutletSeparating_of_closed b (endConnection b (.separated cause) u) (by simp [u, command])
      (by simp [u, outlet])
    simpa [couplerAuxChanged, couplerOpened, stage, kept, driven, State.inMs, ticksPerMs, u] using opens
  rw [parts]
  refine ⟨by simp [u, stage], by simp [u, kept], by simp [u], by simp, by simp, by simp, ?_, ?_⟩
  · exact writesConnectionEnd_congr b _ s u _ _ (by simp [u]) (by simp [u]) (by simp [u]) (by simp) (by simp) (by simp)
      (endConnection_writes b _ u)
  · exact holdsFinalInterval_congr b _ s u _ _ (by simp [u]) (by simp [u]) (by simp) (by simp)
      (endConnection_holds b _ u)

/-- The coupler opens unprompted while the buses are joined: the ship has parted them (R17). -/
theorem couplerOpens_joined (b : Berth) (s : State) (hq : s.quiet) (aux : (s.sec b).couplerAux = .closed)
    (driven : (s.sec b).couplerOpen = none)
    (stage : (s.berth b).stage = .parallel ∨ (s.berth b).stage = .rampingIn ∨ (s.berth b).stage = .shoreCarrying ∨
      (s.berth b).stage = .rampingOut)
    (command : (s.sec b).outletCommand = .closed) (outlet : (s.sec b).outletAux = .closed) :
    ∃ t, exec (.couplerAuxChange b .opened) s = .next t ∧ (t.berth b).stage = .separating ∧
      (t.berth b).separationCause = some .couplerOpenedByShip ∧ (t.meter b).connected = false ∧
      (t.sec b).outletCommand = .opened ∧ (t.sec b).supervision = .opening (s.now + 200 * 10000) := by
  refine ⟨_, couplerAuxChange_eq b .opened s hq (by simp [aux]), ?_⟩
  have parts : couplerAuxChanged b .opened (couplerAuxMoved b .opened s) =
      enterSeparating b .couplerOpenedByShip
        ((couplerAuxMoved b .opened s).modSec b fun c => { c with couplerOpen := none }) := by
    rcases stage with stage | stage | stage | stage <;> simp [couplerAuxChanged, couplerOpened, stage, driven]
  rw [parts]
  simpa using enterSeparating_of_open b .couplerOpenedByShip
    ((couplerAuxMoved b .opened s).modSec b fun c => { c with couplerOpen := none }) (by simp) (by simp [command])
    (by simp [outlet])

/-! The open pulse's expiry (R126). -/

theorem openPulseExpired_releases (b : Berth) (s : State)
    (h : (s.berth b).stage ≠ .separating ∨ (s.sec b).couplerAux = .opened) :
    openPulseExpired b s = s.modSec b fun c => { c with couplerOpen := none } := by
  unfold openPulseExpired
  exact if_neg (by rcases h with h | h <;> simp [h])

/-- A berth's record and its section do not touch. -/
theorem modBerth_modSec (b : Berth) (f : BerthRecord → BerthRecord) (g : Section → Section) (s : State) :
    (s.modSec b g).modBerth b f = (s.modBerth b f).modSec b g := rfl

theorem openPulseExpired_fails (b : Berth) (s : State) (stage : (s.berth b).stage = .separating)
    (aux : (s.sec b).couplerAux = .closed) (command : (s.sec b).outletCommand = .closed)
    (outlet : (s.sec b).outletAux = .closed) :
    openPulseExpired b s =
      (s.modBerth b fun r => { r with separationCause := some .couplerFailedToOpen }).modSec b fun c =>
        { c with couplerOpen := none, outletCommand := .opened, supervision := .opening (s.inMs 200) } := by
  unfold openPulseExpired
  dsimp only
  rw [if_pos (by simp [stage, aux]), openOutletSeparating_of_closed b _ (by simp [command]) (by simp [outlet])]
  rw [modBerth_modSec, State.modSec_modSec]
  rfl

theorem couplerOpenPulseExpiry_acts (b : Berth) (e : Nat) (s t : State) (hq : s.quiet)
    (driven : (s.sec b).couplerOpen = some e) (acts : openPulseExpired b (atExpiry e s) = t)
    (hb : t.budget = s.budget) (hs : t.settings = s.settings) : exec (.couplerOpenPulseExpiry b) s = .next t :=
  congrArg Host.Outcome.next (timed_eq _ _ s t e hq driven acts hb hs)

/-- Settles O52: the coupler auxiliary's four cases, and the open pulse's expiry. -/
theorem couplerAuxiliaryAndOpenPulse : Obligations.CouplerAuxiliaryAndOpenPulse := by
  constructor
  · intro b s hq
    exact ⟨fun a => couplerCloses_synchronising b a s hq, couplerCloses_unwanted b s hq,
      fun pulse cause => couplerOpens_separating b pulse cause s hq, couplerOpens_joined b s hq⟩
  · intro b e s hq driven
    refine ⟨fun h => ?_, fun stage aux command outlet => ?_⟩
    · exact couplerOpenPulseExpiry_acts b e s _ hq driven (openPulseExpired_releases b (atExpiry e s) h) rfl rfl
    · refine couplerOpenPulseExpiry_acts b e s _ hq driven
        ((openPulseExpired_fails b (atExpiry e s) stage aux command outlet).trans ?_) rfl rfl
      simp [State.inMs, ticksPerMs]

end Sys2Proof.Machine
end

