-- ==== Sys2Proof/Proofs/OutletAuxiliary.lean ====
section
/-! SUPPORT. The outlet auxiliary: entry to ENERGISING, the entry to RELEASING and its end (O51). -/

namespace Sys2Proof.Machine

/-! No release of slots opens or closes a connection. -/

@[simp] theorem poolWork_connected (fuel : Nat) (tasks : List PoolTask) (c : Berth) (s : State) :
    ((poolWork fuel tasks s).meter c).connected = (s.meter c).connected := by
  have taken (d : Berth) (t : State) :
      ((t.modMeter d fun m => { m with held := none }).meter c).connected = (t.meter c).connected := by
    by_cases e : c = d
    · subst e; simp
    · simp [e]
  induction fuel generalizing tasks s with
  | zero => cases tasks <;> rfl
  | succ fuel ih =>
    match tasks with
    | [] => simp
    | .release i :: rest =>
      rw [poolWork_release]
      dsimp only
      (repeat' split) <;> simp [ih, taken]
    | .join b ref :: rest =>
      rw [poolWork_join]
      split <;> simp [ih]

@[simp] theorem releaseSlots_connected (work : List SlotId) (c : Berth) (s : State) :
    ((releaseSlots work s).meter c).connected = (s.meter c).connected := poolWork_connected _ _ c s

@[simp] theorem returnReservation_connected (b c : Berth) (s : State) :
    ((returnReservation b s).meter c).connected = (s.meter c).connected := by
  simp [returnReservation]

@[simp] theorem removeCopies_connected (b : Berth) (queue : List RecordRef) (c : Berth) (s : State) :
    ((removeCopies b queue s).meter c).connected = (s.meter c).connected := by
  induction queue generalizing s with
  | nil => rfl
  | cons r rest ih => simp [removeCopies, releaseEntry_eq, ih]

@[simp] theorem enterVacant_connected (b c : Berth) (s : State) :
    ((enterVacant b s).meter c).connected = (s.meter c).connected := by
  simp [enterVacant, emptyCopies]

@[simp] theorem releasingCheck_connected (b c : Berth) (s : State) :
    ((releasingCheck b s).meter c).connected = (s.meter c).connected := by
  unfold releasingCheck
  dsimp only
  (repeat' split) <;> simp

@[simp] theorem releaseClose_connected (b c : Berth) (s : State) :
    ((releaseClose b s).meter c).connected = (s.meter c).connected := by
  unfold releaseClose
  dsimp only
  split <;> simp

/-! The end of RELEASING (R20). -/

/-- With its ship link lost a berth stays in VACANT (R7). -/
theorem enterVacant_of_lost (b : Berth) (s : State) (h : (s.berth b).linkLost = true) :
    ((enterVacant b s).berth b).stage = .vacant := by
  unfold enterVacant
  simp [passOn_stage, h]

/-- With the outlet open RELEASING lasts while a module is left, and then gives AGREED, or VACANT if the link is lost
(R20). -/
theorem releasingCheck_stage (b : Berth) (s : State) (stage : (s.berth b).stage = .releasing)
    (aux : (s.sec b).outletAux = .opened) :
    ((s.berth b).moduleCount ≠ 0 → ((releasingCheck b s).berth b).stage = .releasing) ∧
      ((s.berth b).moduleCount = 0 → (s.berth b).linkLost = false → ((releasingCheck b s).berth b).stage = .agreed) ∧
      ((s.berth b).moduleCount = 0 → (s.berth b).linkLost = true → ((releasingCheck b s).berth b).stage = .vacant) := by
  refine ⟨fun left => ?_, fun none_left up => ?_, fun none_left lost => ?_⟩
  · simp [releasingCheck, left, stage]
  · simp [releasingCheck, stage, none_left, aux, up, enterAgreed]
  · simp [releasingCheck, stage, none_left, aux, lost, enterVacant_of_lost]

/-- RELEASING ends with the records, the channels and the reservation as they are where the link is not lost. -/
theorem releasingCheck_keeps_records (b : Berth) (s : State) (up : (s.berth b).linkLost = false) :
    (releasingCheck b s).records = s.records ∧ (releasingCheck b s).meter b = s.meter b ∧
      ((releasingCheck b s).berth b).summaryReserved = (s.berth b).summaryReserved := by
  simp only [releasingCheck, up]
  split <;> simp

/-! The entry to RELEASING (R19). -/

/-- The state at the end of RELEASING's entry, before it is seen whether RELEASING ends at once. -/
def releasingEntered (b : Berth) (s : State) : State :=
  let s := setStage b .releasing s
  let s := s.modBerth b fun r => { r with stageTimer := none, syncHold := false }
  let s := setMode b .stopped s
  let s := cancelSchedule b (stopGrace b s)
  let s := clearReservation b (dropWaiting b (clearRamp b s))
  withdraw b true (commandOutletOpen b (releaseClose b s))

theorem enterReleasing_eq (b : Berth) (s : State) : enterReleasing b s = releasingCheck b (releasingEntered b s) := rfl

@[simp] theorem releasingEntered_stage (b : Berth) (s : State) :
    ((releasingEntered b s).berth b).stage = .releasing := by
  simp [releasingEntered]

@[simp] theorem releasingEntered_mode (b : Berth) (s : State) :
    ((releasingEntered b s).reference b).mode = .stopped := by
  simp [releasingEntered, setMode_mode]

@[simp] theorem releasingEntered_frame (b : Berth) (s : State) :
    ((releasingEntered b s).berth b).linkLost = (s.berth b).linkLost ∧
    ((releasingEntered b s).sec b).outletAux = (s.sec b).outletAux ∧
    ((releasingEntered b s).meter b).connected = (s.meter b).connected := by
  simp [releasingEntered]

/-- Where the outlet stands open, no supervision follows the command (R125). -/
theorem commandOutletOpen_of_open (b : Berth) (s : State) (idle : (s.sec b).supervision = .idle)
    (aux : (s.sec b).outletAux = .opened) : ((commandOutletOpen b s).sec b).supervision = .idle := by
  unfold commandOutletOpen
  split <;> simp [idle, aux]

theorem releaseClose_section (b : Berth) (s : State) :
    ((releaseClose b s).sec b).supervision = (s.sec b).supervision ∧
      ((releaseClose b s).sec b).outletAux = (s.sec b).outletAux := by
  unfold releaseClose
  dsimp only
  split <;> simp [beginOpenPulse]

theorem releasingEntered_supervision (b : Berth) (s : State) (idle : (s.sec b).supervision = .idle)
    (aux : (s.sec b).outletAux = .opened) : ((releasingEntered b s).sec b).supervision = .idle := by
  unfold releasingEntered
  dsimp only
  rw [withdraw_section _ _ _ _ (by simp)]
  refine commandOutletOpen_of_open b _ ?_ (by simp [aux])
  simp [releaseClose_section, cancelSchedule, stopGrace, idle]

/-- Without a close in flight the entry stops the Synchroniser, and no more (R19). -/
theorem releaseClose_of_none (b : Berth) (s : State) (h : (s.sync b).inFlight = false) :
    releaseClose b s = stopSync b s := by
  simp [releaseClose, h]

/-- Without a close in flight the entry writes no record and releases no slot (R19). -/
theorem releasingEntered_keeps_records (b : Berth) (s : State) (h : (s.sync b).inFlight = false) :
    (releasingEntered b s).records = s.records ∧ (releasingEntered b s).meter b = s.meter b ∧
      ((releasingEntered b s).berth b).summaryReserved = (s.berth b).summaryReserved := by
  unfold releasingEntered
  dsimp only
  rw [releaseClose_of_none b _ (by simp [cancelSchedule, setCheckRunning, h])]
  simp

/-! Entry to ENERGISING (R12, R129). -/

theorem enterEnergising_own (b : Berth) (s : State) :
    let t := enterEnergising b s
    (t.berth b).stage = .energising ∧ (t.reference b).mode = .free ∧
      (t.berth b).stageTimer = some (s.now + 30 * 10000000) ∧ (t.berth b).qualification = none ∧
      (t.sec b).schedule = .waiting (s.now + 60 * 10000000) ∧ (t.sec b).deferrals = 0 ∧
      (t.sec b).outletAux = (s.sec b).outletAux ∧ (t.sec b).supervision = (s.sec b).supervision ∧
      t.pool = s.pool ∧ t.budget = s.budget ∧ t.meters = s.meters ∧ t.records = s.records ∧
      t.settings = s.settings := by
  simp [enterEnergising, State.inSeconds, ticksPerSecond]

/-! The outlet auxiliary (R124, R125). -/

/-- The state in which a change of the outlet auxiliary acts. -/
def outletAuxMoved (b : Berth) (level : Contact) (s : State) : State :=
  changed b .outletAux (fun c => { c with outletAux := level }) s

theorem outletAuxChange_eq (b : Berth) (level : Contact) (s : State) (hq : s.quiet) (h : (s.sec b).outletAux ≠ level) :
    exec (.outletAuxChange b level) s =
      .next (settleExceeded (outletAuxChanged b level (outletAuxMoved b level s))) :=
  congrArg Host.Outcome.next (lineEvent_of_changed _ _ _ _ _ s hq (by simpa using h))

@[simp] theorem outletAuxMoved_section (b : Berth) (level : Contact) (s : State) :
    ((outletAuxMoved b level s).sec b).outletAux = level ∧
    ((outletAuxMoved b level s).sec b).supervision = (s.sec b).supervision ∧
    ((outletAuxMoved b level s).sec b).outletCommand = (s.sec b).outletCommand := by
  simp [outletAuxMoved, changed_section]

@[simp] theorem outletAuxMoved_frame (b : Berth) (level : Contact) (s : State) :
    (outletAuxMoved b level s).now = s.now ∧ (outletAuxMoved b level s).pool = s.pool ∧
    (outletAuxMoved b level s).budget = s.budget ∧ (outletAuxMoved b level s).settings = s.settings ∧
    (outletAuxMoved b level s).meters = s.meters ∧ (outletAuxMoved b level s).records = s.records ∧
    (outletAuxMoved b level s).tariff = s.tariff ∧ (∀ c, (outletAuxMoved b level s).berth c = s.berth c) ∧
    (∀ c, (outletAuxMoved b level s).sync c = s.sync c) ∧
    (∀ c, (outletAuxMoved b level s).meter c = s.meter c) := by
  simp [outletAuxMoved]

/-- The state in which a supervised change that is confirmed takes the berth on: the supervision is over. -/
def outletConfirmed (b : Berth) (level : Contact) (s : State) : State :=
  (outletAuxMoved b level s).modSec b fun c => { c with supervision := .idle }

@[simp] theorem outletConfirmed_section (b : Berth) (level : Contact) (s : State) :
    ((outletConfirmed b level s).sec b).outletAux = level ∧
    ((outletConfirmed b level s).sec b).supervision = .idle := by
  simp [outletConfirmed]

@[simp] theorem outletConfirmed_frame (b : Berth) (level : Contact) (s : State) :
    (outletConfirmed b level s).now = s.now ∧ (outletConfirmed b level s).pool = s.pool ∧
    (outletConfirmed b level s).budget = s.budget ∧ (outletConfirmed b level s).settings = s.settings ∧
    (outletConfirmed b level s).meters = s.meters ∧ (outletConfirmed b level s).records = s.records ∧
    (outletConfirmed b level s).tariff = s.tariff ∧ (∀ c, (outletConfirmed b level s).berth c = s.berth c) ∧
    (∀ c, (outletConfirmed b level s).sync c = s.sync c) ∧
    (∀ c, (outletConfirmed b level s).meter c = s.meter c) := by
  simp [outletConfirmed]

/-- A supervised close confirmed in ALLOCATING takes the berth to ENERGISING (R10, R124). -/
theorem outletCloses_allocating (b : Berth) (e : Nat) (s : State) (hq : s.quiet)
    (supervised : (s.sec b).supervision = .closing e) (aux : (s.sec b).outletAux = .opened)
    (stage : (s.berth b).stage = .allocating) :
    ∃ t, exec (.outletAuxChange b .closed) s = .next t ∧ (t.sec b).outletAux = .closed ∧
      (t.sec b).supervision = .idle ∧ (t.berth b).stage = .energising ∧ (t.reference b).mode = .free ∧
      (t.berth b).stageTimer = some (s.now + 30 * 10000000) ∧ (t.berth b).qualification = none ∧
      (t.sec b).schedule = .waiting (s.now + 60 * 10000000) ∧ (t.sec b).deferrals = 0 ∧
      t.pool = s.pool ∧ t.budget = s.budget ∧ t.meters = s.meters ∧ t.records = s.records := by
  have confirms : outletAuxChanged b .closed (outletAuxMoved b .closed s) =
      enterEnergising b (outletConfirmed b .closed s) := by
    simp [outletAuxChanged, outletClosed, supervised, stage, outletConfirmed]
  obtain ⟨energising, mode, timer, qualification, schedule, deferrals, aux', idle, pool, budget, meters, records,
    settings⟩ := enterEnergising_own b (outletConfirmed b .closed s)
  simp only [outletConfirmed_frame,
    outletConfirmed_section] at timer schedule aux' idle pool budget meters records settings
  refine ⟨_, (outletAuxChange_eq b .closed s hq (by simp [aux])).trans (congrArg _ ?_), aux', idle, energising, mode,
    timer, qualification, schedule, deferrals, pool, budget, meters, records⟩
  rw [confirms, settleExceeded_of_honest _ (exceededHonest_of_same s _ budget settings hq.2)]

/-- A supervised opening confirmed in RELEASING takes the berth on where no module is left (R20, R125). -/
theorem outletOpens_releasing (b : Berth) (e : Nat) (s : State) (hq : s.quiet)
    (supervised : (s.sec b).supervision = .opening e) (aux : (s.sec b).outletAux = .closed)
    (stage : (s.berth b).stage = .releasing) :
    ∃ t, exec (.outletAuxChange b .opened) s = .next t ∧ (t.sec b).supervision = .idle ∧
      ((s.berth b).moduleCount ≠ 0 → (t.berth b).stage = .releasing) ∧
      ((s.berth b).moduleCount = 0 → (s.berth b).linkLost = false → (t.berth b).stage = .agreed) ∧
      ((s.berth b).moduleCount = 0 → (s.berth b).linkLost = true → (t.berth b).stage = .vacant) := by
  refine ⟨_, outletAuxChange_eq b .opened s hq (by simp [aux]), ?_⟩
  have confirms : outletAuxChanged b .opened (outletAuxMoved b .opened s) =
      releasingCheck b (outletConfirmed b .opened s) := by
    simp [outletAuxChanged, outletConfirmedOpen, supervised, stage, outletConfirmed]
  rw [confirms]
  refine ⟨by simp, ?_⟩
  simpa using releasingCheck_stage b (outletConfirmed b .opened s) (by simp [stage]) (by simp)

/-- A supervised opening confirmed in SEPARATING ends the connection and enters RELEASING (R18, R125, R139). -/
theorem outletOpens_separating (b : Berth) (e : Nat) (cause : SeparationCause) (s : State) (hq : s.quiet)
    (supervised : (s.sec b).supervision = .opening e) (aux : (s.sec b).outletAux = .closed)
    (stage : (s.berth b).stage = .separating) (kept : (s.berth b).separationCause = some cause) :
    ∃ t, exec (.outletAuxChange b .opened) s = .next t ∧ (t.sec b).supervision = .idle ∧
      (t.meter b).connected = false ∧ (t.reference b).mode = .stopped ∧
      ((t.berth b).moduleCount ≠ 0 → (t.berth b).stage = .releasing) ∧
      ((t.berth b).moduleCount = 0 → (s.berth b).linkLost = false → (t.berth b).stage = .agreed) ∧
      ((t.berth b).moduleCount = 0 → (s.berth b).linkLost = true → (t.berth b).stage = .vacant) ∧
      ((s.berth b).linkLost = false → (s.sync b).inFlight = false → writesConnectionEnd b (.separated cause) s t) := by
  refine ⟨_, outletAuxChange_eq b .opened s hq (by simp [aux]), ?_⟩
  let u := outletConfirmed b .opened s
  let v := releasingEntered b (endConnection b (.separated cause) u)
  have confirms : outletAuxChanged b .opened (outletAuxMoved b .opened s) = releasingCheck b v := by
    simp [outletAuxChanged, outletConfirmedOpen, outletOpened, enterReleasing_eq, supervised, stage, kept,
      outletConfirmed, u, v]
  have idle : (v.sec b).supervision = .idle := releasingEntered_supervision b _ (by simp [u]) (by simp [u])
  obtain ⟨releasing, agreed, vacant⟩ := releasingCheck_stage b v (by simp [v]) (by simp [u, v])
  have lost : (v.berth b).linkLost = (s.berth b).linkLost := by simp [u, v]
  rw [lost] at agreed vacant
  rw [confirms]
  refine ⟨by simp [idle], by simp [v], by simp [v], by simpa using releasing, by simpa using agreed,
    by simpa using vacant, fun up none_in_flight => ?_⟩
  obtain ⟨records, meter, reserved⟩ := releasingCheck_keeps_records b v (by rw [lost, up])
  obtain ⟨records', meter', reserved'⟩ :=
    releasingEntered_keeps_records b (endConnection b (.separated cause) u) (by simp [u, none_in_flight])
  exact writesConnectionEnd_congr b _ s u _ _ (by simp [u]) (by simp [u]) (by simp [u]) (by simp [records, v, records'])
    (by simp [meter, v, meter']) (by simp [reserved, v, reserved']) (endConnection_writes b _ u)

/-- An uncommanded opening raises OUTLET_BREAKER (R125). -/
theorem outletOpens_uncommanded (b : Berth) (s : State) (hq : s.quiet) (idle : (s.sec b).supervision = .idle)
    (command : (s.sec b).outletCommand = .closed) (aux : (s.sec b).outletAux = .closed)
    (stage : (s.berth b).stage ≠ .tripped) :
    ∃ t, exec (.outletAuxChange b .opened) s = .next t ∧ (t.berth b).stage = .tripped ∧
      (t.berth b).causes = (s.berth b).causes ++ [.outletBreaker] := by
  refine ⟨_, outletAuxChange_eq b .opened s hq (by simp [aux]), ?_⟩
  have trips : outletAuxChanged b .opened (outletAuxMoved b .opened s) =
      outletTripped b (outletAuxMoved b .opened s) := by
    simp [outletAuxChanged, idle, command]
  obtain ⟨u, raised, stage', causes⟩ : ∃ u,
      outletTripped b (outletAuxMoved b .opened s) = raiseCause b .outletBreaker u ∧
      (u.berth b).stage = (s.berth b).stage ∧ (u.berth b).causes = (s.berth b).causes := by
    refine ⟨_, rfl, ?_⟩
    split <;> simp
  rw [trips, raised]
  simp [raiseCause_stage, raiseCause_causes b _ u (stage' ▸ stage), causes]

/-- An uncommanded closing raises OUTLET_BREAKER (R124). -/
theorem outletCloses_uncommanded (b : Berth) (s : State) (hq : s.quiet) (idle : (s.sec b).supervision = .idle)
    (command : (s.sec b).outletCommand = .opened) (aux : (s.sec b).outletAux = .opened)
    (stage : (s.berth b).stage ≠ .tripped) :
    ∃ t, exec (.outletAuxChange b .closed) s = .next t ∧ (t.berth b).stage = .tripped ∧
      (t.berth b).causes = (s.berth b).causes ++ [.outletBreaker] := by
  refine ⟨_, outletAuxChange_eq b .closed s hq (by simp [aux]), ?_⟩
  have trips : outletAuxChanged b .closed (outletAuxMoved b .closed s) =
      raiseCause b .outletBreaker (outletAuxMoved b .closed s) := by
    simp [outletAuxChanged, idle, command]
  rw [trips]
  simp [raiseCause_stage, raiseCause_causes b _ (outletAuxMoved b .closed s) (by simpa using stage)]

/-- Settles O51: the outlet auxiliary confirms a command, in ALLOCATING, RELEASING and SEPARATING, or trips the
berth. -/
theorem outletAuxiliaryConfirmsOrTrips : Obligations.OutletAuxiliaryConfirmsOrTrips := fun b s hq =>
  ⟨fun e => outletCloses_allocating b e s hq, fun e => outletOpens_releasing b e s hq,
    fun e cause => outletOpens_separating b e cause s hq, outletOpens_uncommanded b s hq,
    outletCloses_uncommanded b s hq⟩

end Sys2Proof.Machine
end
